-- ==== Sys2Proof/Word.lean ====
section
/-! DEFINITION. The word types of the unit: 00_scope.md R10 (every value is a 64-bit unsigned integer) and R18 (bytes). -/

namespace Sys2Proof

/-- A register, operand, result, key, cursor or bus data word (R10, R31). -/
abbrev Word := BitVec 64

/-- A message byte, or one byte of the register window (R18, R48). -/
abbrev Byte := BitVec 8

end Sys2Proof
end

