-- ==== Sys2Proof/Config.lean ====
section
/-! DEFINITION. What a synthesis of the unit fixes (00_scope.md R11), the reference configuration of `State.reset` (log 1), and the
free values: constants with no body, so that no proof can see what they are (00_scope.md R19 `draw`, log 3, 4, 7, 11). -/

namespace Sys2Proof

/-- The prime source's variant and what it needs: `PSRC_MODE` with `PTABLE` or `SEARCH_SEED` (R11, R12, R53). -/
inductive PrimeSource where
  /-- `PSRC_MODE` = TABLE: the prime table ROM, whose length is `PTABLE_LEN`. -/
  | table (entries : List Word)
  /-- `PSRC_MODE` = SEARCH: `SEARCH_SEED`, the cursor's value after reset. -/
  | search (seed : Word)
  deriving DecidableEq, Repr

/-- The synthesis parameters of R11. "A model takes each as an argument; none can change after reset." -/
structure Params where
  /-- `ASSERT_EN` -/
  assertEn : Bool
  /-- `DEBUG_EN` -/
  debugEn : Bool
  /-- `PSRC_MODE`, `PTABLE`, `PTABLE_LEN`, `SEARCH_SEED` -/
  source : PrimeSource
  /-- `BUF_CAP` -/
  bufCap : Nat
  /-- `FATAL_CODE` -/
  fatalCode : BitVec 8
  deriving DecidableEq, Repr

/-- `PSRC_MODE` as CONFIG reports it: 0 = TABLE, 1 = SEARCH (R11, R32). -/
def PrimeSource.modeBit : PrimeSource → Bool
  | .table _ => false
  | .search _ => true

/-- `PTABLE_LEN`: the populated entry count in TABLE mode, 0 in SEARCH mode (R11, R33). -/
def PrimeSource.tableLen : PrimeSource → Nat
  | .table entries => entries.length
  | .search _ => 0

/-- PCUR after reset: 0 in TABLE mode, `SEARCH_SEED` in SEARCH mode (10_state.md R44, R56). -/
def PrimeSource.resetCursor : PrimeSource → Word
  | .table _ => 0
  | .search seed => seed

namespace Config

/-- DESIGN CHOICE (log 1): the configuration of `State.reset`. The spec leaves every one of these values to the synthesis. -/
def reference : Params :=
  { assertEn := true, debugEn := false, source := .search 2147483647, bufCap := 4096, fatalCode := 1 }

/-- The free value `draw()` of R19, one for each number of the counter `State.draws` (log 3). -/
opaque freeWord : Nat → Word

/-- The free value `draw({0, 1})` of 43_primality.md R201 (log 3). -/
opaque freeBit : Nat → Bool

/-- Which of the two outcomes R142 admits a command with a failed check takes when `ASSERT_EN` = 0: true is (a), it never completes (log 4). -/
opaque freeHang : Nat → Bool

/-- How many diagnostic events the unit emits in a step beyond those R331 asks for (log 11). -/
opaque freeCount : Nat → Nat

/-- The byte at a window offset of MSGBUF or CTBUF that nothing has written since the given reset (R340, R346, log 7). -/
opaque resetByte : Nat → Nat → Byte

end Config

end Sys2Proof
end

