-- ==== Sys2Proof/Syntax.lean ====
section
/-! DEFINITION. The commands of RSA64-CMD version 1, one constructor per row of spec/opcode_table.json (30_encoding.md R102). No
command carries an operand in its word (R104), so no constructor has an argument. -/

namespace Sys2Proof

/-- A command of the unit (R102); the rule that gives each its meaning stands beside it. -/
inductive Instr where
  /-- R160 -/
  | gcd
  /-- R183 -/
  | mulmod
  /-- R185 -/
  | powmod
  /-- R200 -/
  | mrtest
  /-- R220 -/
  | pnext
  /-- R240 -/
  | invmod
  /-- R245 -/
  | keyderive
  /-- R255 -/
  | keygen
  /-- R270 -/
  | encbyte
  /-- R275 -/
  | encbuf
  /-- R280 -/
  | generate
  deriving DecidableEq, Repr

end Sys2Proof
end

