-- ==== Sys2Proof/WellFormed.lean ====
section
/-! DEFINITION. What the spec calls well formed: a command (30_encoding.md R104), a command word (R100, R105), and a configuration
(00_scope.md R11, R12). -/

namespace Sys2Proof

/-- A command has no operand field, so every one is well formed (R104). -/
def Instr.wellFormed : Instr → Bool
  | .gcd | .mulmod | .powmod | .mrtest | .pnext | .invmod | .keyderive | .keygen | .encbyte | .encbuf | .generate => true

/-- A command word is legal when RSVD, bits [63:8], is 0 and OP, bits [7:0], is one of 0x01 … 0x0B (R100, R102, R105). -/
def cmdWordWellFormed (w : Word) : Bool :=
  decide (w.toNat / 256 = 0) && decide (1 ≤ w.toNat % 256) && decide (w.toNat % 256 ≤ 11)

/-- The constraints of R11 and R12 on the prime source: at least two entries, no more than fill a 32-bit PTABLE_LEN, every one a prime
number, pairwise distinct; a seed that is odd and in range. -/
def PrimeSource.wellFormed : PrimeSource → Bool
  | .table entries =>
    decide (2 ≤ entries.length) && decide (entries.length ≤ 2 ^ 32 - 1) && entries.all (fun p => decide p.toNat.Prime) &&
      decide entries.Nodup
  | .search seed =>
    decide (seed.toNat % 2 = 1) && decide (3 ≤ seed.toNat) && decide (seed.toNat ≤ 2 ^ 63 - 1)

/-- The constraints of R11 and R12 (93 U13: a configuration outside them is not an RSA64 core, log 10). -/
def Params.wellFormed (c : Params) : Bool :=
  decide (1 ≤ c.bufCap) && decide (c.bufCap ≤ 65536) && c.fatalCode != 0 && c.source.wellFormed

end Sys2Proof
end

