-- ==== Sys2Proof/Decode.lean ====
section
/-! DEFINITION. The command decoder and encoder: 30_encoding.md R100 to R106. Decoding is total: a word is one of the eleven
commands or illegal, and the reason is named. -/

namespace Sys2Proof

/-- The field OP, bits [7:0] of a command word (R100). -/
def opField (w : Word) : BitVec 8 := w.extractLsb' 0 8

/-- The field RSVD, bits [63:8] of a command word (R100). -/
def rsvdField (w : Word) : BitVec 56 := w.extractLsb' 8 56

/-- Why a command word is illegal (R105). -/
inductive IllegalWord where
  /-- RSVD ≠ 0, whatever OP is. -/
  | reservedBits
  /-- RSVD = 0 and OP is 0x00 or 0x0C … 0xFF. -/
  | unassignedOp (op : BitVec 8)
  deriving DecidableEq, Repr

/-- What R103 says a word decodes to: exactly one command, or illegal. -/
inductive Decoded where
  | command (i : Instr)
  | illegal (why : IllegalWord)
  deriving DecidableEq, Repr

/-- The command an OP code selects (R102), if any. -/
def instrOfOp (op : BitVec 8) : Option Instr :=
  match op.toNat with
  | 0x01 => some .gcd
  | 0x02 => some .mulmod
  | 0x03 => some .powmod
  | 0x04 => some .mrtest
  | 0x05 => some .pnext
  | 0x06 => some .invmod
  | 0x07 => some .keyderive
  | 0x08 => some .keygen
  | 0x09 => some .encbyte
  | 0x0A => some .encbuf
  | 0x0B => some .generate
  | _ => none

/-- R103, R105: a word with a reserved bit set is illegal whatever its OP; otherwise OP decides. -/
def decode (w : Word) : Decoded :=
  if rsvdField w = 0 then
    match instrOfOp (opField w) with
    | some i => .command i
    | none => .illegal (.unassignedOp (opField w))
  else .illegal .reservedBits

/-- The OP code of a command (R102). -/
def opcode : Instr → BitVec 8
  | .gcd => 0x01
  | .mulmod => 0x02
  | .powmod => 0x03
  | .mrtest => 0x04
  | .pnext => 0x05
  | .invmod => 0x06
  | .keyderive => 0x07
  | .keygen => 0x08
  | .encbyte => 0x09
  | .encbuf => 0x0A
  | .generate => 0x0B

/-- The command word: OP in bits [7:0], RSVD = 0 in bits [63:8] (R100). -/
def encode (i : Instr) : Word := 0#56 ++ opcode i

/-- The 64-bit command word given by the `nbits` low bits of `w`, bits above them 0 (R101: every command word is 64 bits). -/
def tableWord (nbits w : Nat) : Word := BitVec.ofNat 64 (w % 2 ^ nbits)

/-- The command the decoder reads from the word `w` of `nbits` bits, none where it is illegal. -/
def decodeTableWord (nbits w : Nat) : Option Instr :=
  match decode (tableWord nbits w) with
  | .command i => some i
  | .illegal _ => none

end Sys2Proof
end

