-- ==== Sys2Proof/Machine/State.lean ====
section
/-! DEFINITION. The machine's state as plain data, the reasons it can stop, and the state after reset: 10_state.md R30 to R56,
70_reset_and_hazards.md R340. INVENTORY.md lists every field with its rule. -/

namespace Sys2Proof.Machine

/-- Why a step stops with a fault: nothing does. An error of the unit is a code in STATUS (60_exceptions.md R300, R310) and a bus error
a response (R307), so the type has no constructor. -/
inductive Fault where
  deriving DecidableEq, Repr

/-- Why a step is refused. -/
inductive Refusal where
  /-- Raised by an arm of exec whose command has no meaning yet (none is left). Safe: it stops where the unit goes on. -/
  | notModelled (mnemonic : String)
  /-- Raised by step when the configuration breaks R11 or R12: "not an RSA64 core" (93 U13, log 10). Safe: the spec gives such a
  configuration no meaning. -/
  | notAnRsa64Core
  deriving DecidableEq, Repr

/-- The error codes of 60_exceptions.md R300; 5 … 15 are never produced (93 U14). -/
inductive ErrCode where
  | none | invalidArg | resource | illegalCmd | exhausted
  deriving DecidableEq, Repr

/-- The command being executed (10_state.md R50, 40_execution.md R131). -/
inductive Current where
  | command (i : Instr)
  /-- `current` = ILLEGAL (R131, R145). -/
  | illegal
  /-- A command with a failed check and `ASSERT_EN` = 0 that never takes its completion step (R142 (a), log 4). -/
  | hung
  deriving DecidableEq, Repr

/-- The sequencer phase (R50); the current command exists exactly while BUSY. -/
inductive Phase where
  | idle
  | busy (current : Current)
  | locked
  deriving DecidableEq, Repr

/-- The fields of STATUS that hold state (R35); BUSY and FATAL are the phase (R50, log 15). -/
structure Status where
  done : Bool
  werr : Bool
  err : ErrCode
  exitCode : BitVec 8
  lastOp : BitVec 8
  deriving DecidableEq, Repr

/-- IRQ_EN (R40). -/
structure IrqEnable where
  doneIe : Bool
  fatalIe : Bool
  deriving DecidableEq, Repr

/-- The 64-bit data registers (R41 to R44, R47). -/
structure Regs where
  opa : Word
  opb : Word
  opc : Word
  res0 : Word
  res1 : Word
  keyN : Word
  keyPhi : Word
  keyE : Word
  keyD : Word
  pcur : Word
  msgLen : Word
  deriving DecidableEq, Repr

/-- MSGBUF and CTBUF by byte offset of the window: the bytes written since reset, offsets strictly rising (log 7). -/
abbrev Memory := List Host.Cell

/-- A bus transaction (20_memory.md R70 to R72): a 20-bit offset, a size in bytes, and for a write the byte strobes and the data. -/
inductive Transaction where
  | read (off : BitVec 20) (bytes : Nat)
  | write (off : BitVec 20) (bytes : Nat) (strobes : BitVec 8) (data : Word)
  deriving DecidableEq, Repr

/-- OKAY or SLVERR (R70). -/
inductive Resp where
  | okay | slverr
  deriving DecidableEq, Repr

/-- What a transaction returns: the response, and for a read the data word (R70). -/
structure BusResponse where
  resp : Resp
  data : Option Word
  deriving DecidableEq, Repr

/-- What happens next, from outside the sequencer: a host transaction, a turn in which the unit may take its completion step, or
reset (40_execution.md R130, R340, log 2). -/
inductive Input where
  | bus (t : Transaction)
  | unit
  | reset
  deriving DecidableEq, Repr

/-- The whole state. `cfg` is the synthesis (no step changes it); the last five fields are the model's own (INVENTORY.md). -/
structure State where
  cfg : Params
  phase : Phase
  status : Status
  irqEn : IrqEnable
  regs : Regs
  mem : Memory
  port : Option BusResponse
  dbg : Nat
  inputs : List Input
  draws : Nat
  epoch : Nat
  deriving DecidableEq, Repr

/-- The reset values of 10_state.md R56 for a configuration. Memory lists nothing: both buffers are unspecified. -/
def State.powerOn (c : Params) : State :=
  { cfg := c
    phase := .idle
    status := { done := false, werr := false, err := .none, exitCode := 0, lastOp := 0 }
    irqEn := { doneIe := false, fatalIe := false }
    regs :=
      { opa := 0, opb := 0, opc := 0, res0 := 0, res1 := 0, keyN := 0, keyPhi := 0, keyE := 0, keyD := 0
        pcur := c.source.resetCursor, msgLen := 0 }
    mem := []
    port := none
    dbg := 0
    inputs := []
    draws := 0
    epoch := 0 }

/-- The machine right after reset, in the reference configuration (log 1). -/
def State.reset : State := State.powerOn Config.reference

end Sys2Proof.Machine
end

