-- ==== Sys2Proof/Machine/Arith.lean ====
section
/-! DEFINITION. The number-theory datapaths: 41_gcd.md R161, 42_modarith.md R180 to R182, 43_primality.md R201, 45_key_deriver.md
R241, R246. Values are naturals, as the pseudocode's variables are (00_scope.md R15); each loop carries a fuel at least as large as
its termination argument gives. A function that may draw takes the counter of free values and answers the counter after it (log 3). -/

namespace Sys2Proof.Machine

/-- Euclid's loop of R161, "repeated remainder until zero"; `b` falls at every turn, so a fuel of `b` is enough. -/
def euclid : Nat → Nat → Nat → Nat
  | 0, a, _ => a
  | fuel + 1, a, b => if b = 0 then a else euclid fuel b (a % b)

/-- The GCD datapath (R161). -/
def gcdUnit (a b : Nat) : Nat := euclid b a b

/-- "m is in range when 1 ≤ m ≤ 2^63 − 1" (R14). -/
abbrev inRange (m : Nat) : Prop := 1 ≤ m ∧ m ≤ 2 ^ 63 - 1

/-- The exact modular product (R180). -/
def mulModExact (a b m : Nat) : Nat := a * b % m

/-- MM of R180: exact for a modulus in range, otherwise a free value. -/
def mulModUnit (a b m : Word) (draws : Nat) : Word × Nat :=
  if inRange m.toNat then (BitVec.ofNat 64 (mulModExact a.toNat b.toNat m.toNat), draws)
  else (Config.freeWord draws, draws + 1)

/-- One conditional subtraction of R181, in 64 bits. -/
def reduceOnce (r m : Word) : Word := if m ≤ r then r - m else r

/-- The doubling loop of R181 over bits `k − 1` down to 0 of `b`, every variable in 64 bits. -/
def doublingLoop (a b m : Word) : Nat → Word → Word
  | 0, r => r
  | k + 1, r =>
    let doubled := reduceOnce (r + r) m
    doublingLoop a b m k (if b.getLsbD k then reduceOnce (doubled + a) m else doubled)

/-- The reference algorithm of R181. The machine uses the exact product; that the two agree is a claim, not a definition. -/
def mulModDoubling (a b m : Word) : Word := doublingLoop (a % m) b m 64 0

/-- The square-and-multiply loop of R182; the exponent has at most 64 bits, so 64 turns are enough. -/
def powLoop (m : Nat) : Nat → Nat → Nat → Nat → Nat
  | 0, r, _, _ => r
  | fuel + 1, r, y, e =>
    if e = 0 then r
    else powLoop m fuel (if e % 2 = 1 then mulModExact r y m else r) (mulModExact y y m) (e / 2)

/-- PM for a modulus in range: 1 for exponent 0, otherwise R182. -/
def powModExact (x e m : Nat) : Nat := if e = 0 then 1 else powLoop m 64 (1 % m) (x % m) e

/-- PM of R180: 1 for exponent 0 whatever the modulus; exact for a modulus in range; otherwise a free value. -/
def powModUnit (x e m : Word) (draws : Nat) : Word × Nat :=
  if e.toNat = 0 then (1, draws)
  else if inRange m.toNat then (BitVec.ofNat 64 (powModExact x.toNat e.toNat m.toNat), draws)
  else (Config.freeWord draws, draws + 1)

/-- The witness ROM (R13, R52). -/
def witnesses : List Nat := [2, 3, 5, 7, 11, 13, 17, 19, 23]

/-- The decomposition loop of R201: from (t, s), halve t while it is even. -/
def oddPart : Nat → Nat → Nat → Nat × Nat
  | 0, t, s => (t, s)
  | fuel + 1, t, s => if t % 2 = 0 then oddPart fuel (t / 2) (s + 1) else (t, s)

/-- "square b up to (s − 1) times, … passes if at any point b = n − 1" (R201). -/
def squaringPasses (n : Nat) : Nat → Nat → Bool
  | 0, _ => false
  | k + 1, b => mulModExact b b n == n - 1 || squaringPasses n k (mulModExact b b n)

/-- One witness of R201; a witness a ≥ n is skipped (R202 (b)). -/
def witnessPasses (n t s a : Nat) : Bool :=
  decide (n ≤ a) || powModExact a t n == 1 || powModExact a t n == n - 1 || squaringPasses n (s - 1) (powModExact a t n)

/-- The witness loop of R201 for an odd n, 3 ≤ n < 2^63; n − 1 < 2^63 is halved at most 62 times (R203). -/
def millerRabin (n : Nat) : Bool :=
  let decomposed := oddPart 64 (n - 1) 0
  witnesses.all (witnessPasses n decomposed.1 decomposed.2)

/-- MRV of R201: the verdict, true for "prime"; a free bit for odd n ≥ 2^63. -/
def verdict (n draws : Nat) : Bool × Nat :=
  if n = 2 then (true, draws)
  else if n % 2 = 0 then (false, draws)
  else if 2 ^ 63 ≤ n then (Config.freeBit draws, draws + 1)
  else (millerRabin n, draws)

/-- The extended Euclid loop of R241; it answers t0 when r1 = 0; r1 falls at every turn. -/
def inverseLoop : Nat → Nat → Nat → Int → Int → Int
  | 0, _, _, t0, _ => t0
  | fuel + 1, r0, r1, t0, t1 =>
    if r1 = 0 then t0 else inverseLoop fuel r1 (r0 % r1) t1 (t0 - (r0 / r1 : Nat) * t1)

/-- INV of R241. -/
def inverseUnit (a m : Nat) : Nat :=
  let t := inverseLoop m m (a % m) 0 1
  (if t < 0 then t + m else t).toNat

/-- The exponent scan of R246, R247: the first e' ≥ e with gcd(e', phi) = 1, in at most `fuel` steps. -/
def exponentScan (phi : Nat) : Nat → Nat → Nat
  | 0, e => e
  | fuel + 1, e => if gcdUnit e phi = 1 then e else exponentScan phi fuel (e + 1)

/-- The KeyMaterial record of R22, R43. -/
structure KeyMaterial where
  n : Nat
  phi : Nat
  e : Nat
  d : Nat
  deriving DecidableEq, Repr

/-- The derivation of R246 from two primes, its checks left out. -/
def deriveFrom (p q : Nat) : KeyMaterial :=
  let phi := (p - 1) * (q - 1)
  let e := exponentScan phi phi 2
  { n := p * q, phi := phi, e := e, d := inverseUnit e phi }

/-- KD of R246: none when one of its checks fails, in the rule's order. -/
def deriveKey (p q : Nat) : Option KeyMaterial :=
  if p = 0 then none
  else if q = 0 then none
  else if p = q then none
  else if 2 ^ 64 - 1 < p * q then none
  else if (p - 1) * (q - 1) < 3 then none
  else some (deriveFrom p q)

end Sys2Proof.Machine
end

