-- ==== Sys2Proof/Machine/Ops.lean ====
section
/-! DEFINITION. The named operations over the state that every command and every transaction is written with: memory, the data
registers, acceptance (40_execution.md R131), completion and the errors (R136, R141, R142, 60_exceptions.md R310, R312), reset (R340). -/

namespace Sys2Proof.Machine

/-! ### Memory -/

/-- The canonical form of memory: offsets strictly rising. An unlisted offset holds no written value (log 7). -/
abbrev Memory.wf (m : Memory) : Prop := (m.map Prod.fst).Pairwise (· < ·)

/-- The byte written at an offset since reset, if any. -/
def Memory.read? : Memory → Nat → Option Byte
  | [], _ => none
  | (b, w) :: m, a => if a = b then some w else Memory.read? m a

/-- Write one byte, keeping the offsets rising. -/
def Memory.write : Memory → Nat → Byte → Memory
  | [], a, v => [(a, v)]
  | (b, w) :: m, a, v =>
    if a < b then (a, v) :: (b, w) :: m
    else if a = b then (a, v) :: m
    else (b, w) :: Memory.write m a v

/-- `MemWrite(addr, n, v)` of R18: the n bytes of v, the least significant at addr. -/
def Memory.writeLE : Memory → Nat → Nat → Nat → Memory
  | m, _, 0, _ => m
  | m, a, n + 1, v => Memory.writeLE (m.write a (BitVec.ofNat 8 v)) (a + 1) n (v / 256)

/-! ### Field updates -/

/-- Replace the phase. -/
def State.setPhase (s : State) (p : Phase) : State := { s with phase := p }
/-- Replace the STATUS fields. -/
def State.setStatus (s : State) (st : Status) : State := { s with status := st }
/-- Replace IRQ_EN. -/
def State.setIrqEn (s : State) (e : IrqEnable) : State := { s with irqEn := e }
/-- Replace the data registers. -/
def State.setRegs (s : State) (r : Regs) : State := { s with regs := r }
/-- Replace the buffers' bytes. -/
def State.setMem (s : State) (m : Memory) : State := { s with mem := m }
/-- Replace the response on the port. -/
def State.setPort (s : State) (r : BusResponse) : State := { s with port := some r }
/-- Replace the counter of free values. -/
def State.setDraws (s : State) (d : Nat) : State := { s with draws := d }

/-! ### Buffers -/

/-- MSGBUF begins here (20_memory.md R78). -/
abbrev msgBase : Nat := 0x10000
/-- CTBUF begins here (R78). -/
abbrev ctBase : Nat := 0x80000

/-- The byte at a window offset of a buffer: what was written since reset, otherwise the unknown byte that reset left (R340, R346, log 7). -/
def State.readByte (s : State) (a : Nat) : Byte :=
  match s.mem.read? a with
  | some b => b
  | none => Config.resetByte s.epoch a

/-- `MemRead(addr, n)` of R18. -/
def State.readLE (s : State) : Nat → Nat → Nat
  | _, 0 => 0
  | a, n + 1 => (s.readByte a).toNat + 256 * State.readLE s (a + 1) n

/-- Message byte i: `MemRead(0x10000 + i, 1)` (R74, R86). -/
def State.msgByte (s : State) (i : Nat) : Byte := s.readByte (msgBase + i)

/-- Ciphertext unit i: the word at 0x80000 + 8i (R75). -/
def State.ctUnit (s : State) (i : Nat) : Word := BitVec.ofNat 64 (s.readLE (ctBase + 8 * i) 8)

/-- `MemWrite(0x80000 + 8i, 8, v)` (R75, R86). -/
def State.writeCt (s : State) (i : Nat) (v : Word) : State := s.setMem (s.mem.writeLE (ctBase + 8 * i) 8 v.toNat)

/-! ### Data registers -/

/-- RES0 <- v. -/
def State.setRes0 (s : State) (v : Word) : State := s.setRegs { s.regs with res0 := v }

/-- RES0 <- p; PCUR <- c1 (R220). -/
def State.setPrime (s : State) (p c1 : Word) : State := s.setRegs { s.regs with res0 := p, pcur := c1 }

/-- KEY_N, KEY_PHI, KEY_E, KEY_D together (R245, R250). -/
def State.setKey (s : State) (k : KeyMaterial) : State :=
  s.setRegs
    { s.regs with
      keyN := BitVec.ofNat 64 k.n
      keyPhi := BitVec.ofNat 64 k.phi
      keyE := BitVec.ofNat 64 k.e
      keyD := BitVec.ofNat 64 k.d }

/-- RES0 <- p; RES1 <- q; PCUR <- c2 (R256). -/
def State.setPrimes (s : State) (p q c2 : Word) : State :=
  s.setRegs { s.regs with res0 := p, res1 := q, pcur := c2 }

/-! ### Acceptance and completion -/

/-- The current command of an accepted word: `current <- decode(w)` (R131). -/
def currentOf (w : Word) : Current :=
  match decode w with
  | .command i => .command i
  | .illegal _ => .illegal

/-- The accepting write of R131: BUSY, DONE and ERR cleared, LAST_OP the low byte; WERR, FATAL and EXIT_CODE unchanged. -/
def State.accept (s : State) (w : Word) : State :=
  (s.setPhase (.busy (currentOf w))).setStatus
    { s.status with done := false, err := .none, lastOp := opField w }

/-- The completion step of R136 for `Success` (ERR 0) and `Error(c)`: DONE, not BUSY, phase IDLE. -/
def State.finish (s : State) (e : ErrCode) : State :=
  (s.setPhase .idle).setStatus { s.status with done := true, err := e }

/-- The completion step of R136 for `Fatal`: ERR 1, FATAL, EXIT_CODE, DONE, phase LOCKED (R312); nothing else changes (R313). -/
def State.lock (s : State) : State :=
  (s.setPhase .locked).setStatus { s.status with done := true, err := .invalidArg, exitCode := s.cfg.fatalCode }

/-- The `Unconstrained` outcome of R142: (a) the command never completes, or (b) it completes with ERR 0 and `havoc`, a free value in
every element of its write set. Which of the two is a free value (log 4). -/
def State.unconstrained (havoc : State → State) (s : State) : State :=
  if Config.freeHang s.draws then (s.setDraws (s.draws + 1)).setPhase (.busy .hung)
  else (havoc (s.setDraws (s.draws + 1))).finish .none

/-- A failed checked precondition (R303): Fatal with `ASSERT_EN` = 1 (R141), Unconstrained with 0 (R142). -/
def State.checkFailed (havoc : State → State) (s : State) : Host.Outcome State Fault Refusal :=
  .next (if s.cfg.assertEn then s.lock else s.unconstrained havoc)

/-- At least one diagnostic event at a RESOURCE error when `DEBUG_EN` = 1 (R279, R331, log 11). -/
def State.notifyResource (s : State) : State := if s.cfg.debugEn then { s with dbg := s.dbg + 1 } else s

/-- `raise E` (R310): the completion step with E's code, whatever `ASSERT_EN` is (R144). -/
def State.raise (s : State) (e : ErrCode) : State :=
  if e = .resource then s.notifyResource.finish e else s.finish e

/-- The completion of an illegal word (R145, R304): ERR 3, nothing else but STATUS. -/
def State.finishIllegal (s : State) : State := s.raise .illegalCmd

/-! ### Free values in a write set (R142 (b)) -/

/-- A free value in RES0. -/
def State.havocRes0 (s : State) : State := (s.setRes0 (Config.freeWord s.draws)).setDraws (s.draws + 1)

/-- Independent free values in the four KEY registers. -/
def State.havocKey (s : State) : State :=
  (s.setRegs
    { s.regs with
      keyN := Config.freeWord s.draws
      keyPhi := Config.freeWord (s.draws + 1)
      keyE := Config.freeWord (s.draws + 2)
      keyD := Config.freeWord (s.draws + 3) }).setDraws (s.draws + 4)

/-- Independent free values in RES0, RES1, PCUR and the KEY registers: KEYGEN's write set (R255). PCUR takes any 64-bit value, in TABLE
mode too (log 5). -/
def State.havocKeyPhase (s : State) : State :=
  ((s.setPrimes (Config.freeWord s.draws) (Config.freeWord (s.draws + 1)) (Config.freeWord (s.draws + 2))).setDraws
    (s.draws + 3)).havocKey

/-- Independent free values in CT[0 … k−1]. -/
def State.havocCt : Nat → State → State
  | 0, s => s
  | k + 1, s =>
    let t := State.havocCt k s
    (t.writeCt k (Config.freeWord t.draws)).setDraws (t.draws + 1)

/-! ### Reset and the event list -/

/-- Reset as one atomic step (R340, R341, log 14): every register at its reset value, the buffers unspecified anew, a running
command abandoned. The configuration, the events to come, the count of free values and the diagnostic stream go on. -/
def State.applyReset (s : State) : State :=
  { State.powerOn s.cfg with inputs := s.inputs, draws := s.draws, epoch := s.epoch + 1, dbg := s.dbg }

/-- What every step begins with: the event it consumes leaves the list, and with `DEBUG_EN` = 1 a free number of diagnostic events
is emitted, since the unit "may emit events at any other step" (R331, log 11). -/
def State.begin (s : State) : State :=
  let popped := { s with inputs := s.inputs.tail }
  if s.cfg.debugEn then { popped with dbg := s.dbg + Config.freeCount s.draws, draws := s.draws + 1 } else popped

end Sys2Proof.Machine
end

