-- ==== Sys2Proof/Machine/Flags.lean ====
section
/-! DEFINITION. The words that STATUS, IRQ_EN, CONFIG and CAPS read as, the write-1-to-clear of STATUS, and the interrupt output:
10_state.md R32, R33, R35 to R40, R46, R54, R55, 60_exceptions.md R300, R320. -/

namespace Sys2Proof.Machine

/-- The 4-bit code of an error (R300). -/
def ErrCode.bits : ErrCode → BitVec 4
  | .none => 0
  | .invalidArg => 1
  | .resource => 2
  | .illegalCmd => 3
  | .exhausted => 4

/-- STATUS.BUSY (R36, R50). -/
def State.isBusy (s : State) : Bool :=
  match s.phase with
  | .busy _ => true
  | .idle => false
  | .locked => false

/-- STATUS.FATAL (R38, R50). -/
def State.isFatal (s : State) : Bool := s.phase == .locked

/-- STATUS as it reads (R35). -/
def State.statusWord (s : State) : Word :=
  0#40 ++ s.status.lastOp ++ s.status.exitCode ++ s.status.err.bits ++ BitVec.ofBool s.status.werr ++
    BitVec.ofBool s.isFatal ++ BitVec.ofBool s.status.done ++ BitVec.ofBool s.isBusy

/-- IRQ_EN as it reads (R40). -/
def State.irqEnWord (s : State) : Word :=
  0#62 ++ BitVec.ofBool s.irqEn.fatalIe ++ BitVec.ofBool s.irqEn.doneIe

/-- CONFIG as it reads (R32): CMDSET_VER = 0x01. -/
def configWord (c : Params) : Word :=
  0#48 ++ 0x01#8 ++ 0#5 ++ BitVec.ofBool c.source.modeBit ++ BitVec.ofBool c.debugEn ++ BitVec.ofBool c.assertEn

/-- CAPS as it reads (R33). -/
def capsWord (c : Params) : Word := BitVec.ofNat 32 c.source.tableLen ++ BitVec.ofNat 32 c.bufCap

/-- A host write to STATUS: bit [1] clears DONE, bit [3] clears WERR, every other bit is ignored (R37, R39). -/
def State.writeStatus (s : State) (v : Word) : State :=
  s.setStatus
    { s.status with
      done := s.status.done && !v.getLsbD 1
      werr := s.status.werr && !v.getLsbD 3 }

/-- A host write to IRQ_EN stores bits [1:0] only (R40). -/
def State.writeIrqEn (s : State) (v : Word) : State := s.setIrqEn { doneIe := v.getLsbD 0, fatalIe := v.getLsbD 1 }

/-- An ignored write sets WERR and changes nothing else (R46, R132). -/
def State.ignoreWrite (s : State) : State := s.setStatus { s.status with werr := true }

/-- The interrupt output (R54, R320). -/
def State.irq (s : State) : Bool :=
  (s.status.done && s.irqEn.doneIe) || (s.isFatal && s.irqEn.fatalIe)

end Sys2Proof.Machine
end

