-- ==== Sys2Proof/Machine/Bus.lean ====
section
/-! DEFINITION. The host port: the address map (20_memory.md R78), the rejected transactions (R72, R73, R77), reads (R76, R137) and
writes (10_state.md R34, R39 to R48, R132). -/

namespace Sys2Proof.Machine

/-- What an offset of the window names (R31, R48, R49). -/
inductive Target where
  | config | caps | cmd | status | irqEn | opa | opb | opc | res0 | res1
  | keyN | keyPhi | keyE | keyD | pcur | msgLen
  /-- word k of MSGBUF -/
  | msg (k : Nat)
  /-- word i of CTBUF -/
  | ct (i : Nat)
  deriving DecidableEq, Repr

/-- The 16 registers in offset order, 8 bytes apart (R31). -/
def registerBlock : List Target :=
  [.config, .caps, .cmd, .status, .irqEn, .opa, .opb, .opc, .res0, .res1, .keyN, .keyPhi, .keyE, .keyD, .pcur, .msgLen]

/-- ⌈BUF_CAP/8⌉, the number of MSGBUF words (R48). -/
abbrev msgWords (c : Params) : Nat := (c.bufCap + 7) / 8

/-- The address map of R78 for an aligned offset; none is a reserved offset. -/
def targetAt (c : Params) (off : Nat) : Option Target :=
  if off < 0x80 then registerBlock[off / 8]?
  else if msgBase ≤ off ∧ off < msgBase + 8 * msgWords c then some (.msg ((off - msgBase) / 8))
  else if ctBase ≤ off ∧ off < ctBase + 8 * c.bufCap then some (.ct ((off - ctBase) / 8))
  else none

/-- The offset of a transaction. -/
def Transaction.off : Transaction → BitVec 20
  | .read off _ => off
  | .write off _ _ _ => off

/-- 8 bytes, all strobes set, naturally aligned (R72, R73). -/
def Transaction.wellFormed : Transaction → Bool
  | .read off bytes => decide (bytes = 8) && decide (off.toNat % 8 = 0)
  | .write off bytes strobes _ => decide (bytes = 8) && strobes == 0xFF#8 && decide (off.toNat % 8 = 0)

/-- What an accepted transaction names; none gets SLVERR (R72, R73, R77). -/
def Transaction.target (c : Params) (t : Transaction) : Option Target :=
  if t.wellFormed then targetAt c t.off.toNat else none

/-! ### MSGBUF words -/

/-- Bytes i and on of the message, n of them, least significant first; a byte at an index ≥ BUF_CAP reads 0 (R48, R74). -/
def State.msgBytesLE (s : State) : Nat → Nat → Nat
  | _, 0 => 0
  | i, n + 1 => (if i < s.cfg.bufCap then (s.msgByte i).toNat else 0) + 256 * State.msgBytesLE s (i + 1) n

/-- MSGBUF word k (R48). -/
def State.msgWord (s : State) (k : Nat) : Word := BitVec.ofNat 64 (s.msgBytesLE (8 * k) 8)

/-- Write the n bytes of v to the message from byte i; a byte at an index ≥ BUF_CAP is discarded (R48). -/
def writeMsgBytes (cap : Nat) : Memory → Nat → Nat → Nat → Memory
  | m, _, 0, _ => m
  | m, i, n + 1, v =>
    writeMsgBytes cap (if i < cap then m.write (msgBase + i) (BitVec.ofNat 8 v) else m) (i + 1) n (v / 256)

/-- Write MSGBUF word k. -/
def State.writeMsgWord (s : State) (k : Nat) (v : Word) : State :=
  s.setMem (writeMsgBytes s.cfg.bufCap s.mem (8 * k) 8 v.toNat)

/-! ### Reads -/

/-- The targets whose reads return a free value while BUSY (R137). -/
def Target.hiddenWhileBusy : Target → Bool
  | .res0 | .res1 | .keyN | .keyPhi | .keyE | .keyD | .pcur | .ct _ => true
  | .config | .caps | .cmd | .status | .irqEn | .opa | .opb | .opc | .msgLen | .msg _ => false

/-- The current value of a target (R31, R76); CMD reads 0 (R34). -/
def State.peek (s : State) : Target → Word
  | .config => configWord s.cfg
  | .caps => capsWord s.cfg
  | .cmd => 0
  | .status => s.statusWord
  | .irqEn => s.irqEnWord
  | .opa => s.regs.opa
  | .opb => s.regs.opb
  | .opc => s.regs.opc
  | .res0 => s.regs.res0
  | .res1 => s.regs.res1
  | .keyN => s.regs.keyN
  | .keyPhi => s.regs.keyPhi
  | .keyE => s.regs.keyE
  | .keyD => s.regs.keyD
  | .pcur => s.regs.pcur
  | .msgLen => s.regs.msgLen
  | .msg k => s.msgWord k
  | .ct i => s.ctUnit i

/-- A read whose data is a free value. -/
def State.respondFree (s : State) (r : Resp) : State :=
  (s.setPort { resp := r, data := some (Config.freeWord s.draws) }).setDraws (s.draws + 1)

/-- A read of a target: no side effect (R76); a free value for a result register or CTBUF while BUSY (R137). -/
def State.readTarget (s : State) (t : Target) : State :=
  if s.isBusy && t.hiddenWhileBusy then s.respondFree .okay
  else s.setPort { resp := .okay, data := some (s.peek t) }

/-! ### Writes -/

/-- A host write to PCUR while idle (R45): in TABLE mode only a legal index is stored. -/
def State.writeCursor (s : State) (v : Word) : State :=
  match s.cfg.source with
  | .search _ => s.setRegs { s.regs with pcur := v }
  | .table entries => if v.toNat < entries.length then s.setRegs { s.regs with pcur := v } else s.ignoreWrite

/-- A host write while IDLE to a target other than STATUS and IRQ_EN (R34, R41 to R49, R131). -/
def State.writeIdle (s : State) (v : Word) : Target → State
  | .cmd => s.accept v
  | .opa => s.setRegs { s.regs with opa := v }
  | .opb => s.setRegs { s.regs with opb := v }
  | .opc => s.setRegs { s.regs with opc := v }
  | .keyN => s.setRegs { s.regs with keyN := v }
  | .keyPhi => s.setRegs { s.regs with keyPhi := v }
  | .keyE => s.setRegs { s.regs with keyE := v }
  | .keyD => s.setRegs { s.regs with keyD := v }
  | .pcur => s.writeCursor v
  | .msgLen => s.setRegs { s.regs with msgLen := v }
  | .msg k => s.writeMsgWord k v
  | .status => s.writeStatus v
  | .irqEn => s.writeIrqEn v
  | .config | .caps | .res0 | .res1 | .ct _ => s.ignoreWrite

/-- A host write to a target: STATUS and IRQ_EN in every phase (R39, R40), any other while BUSY or LOCKED is ignored (R46 (b), R132). -/
def State.writeTarget (s : State) (v : Word) (t : Target) : State :=
  if t = .status then s.writeStatus v
  else if t = .irqEn then s.writeIrqEn v
  else if s.phase = .idle then s.writeIdle v t
  else s.ignoreWrite

/-- One host transaction: its effect and its response (R70 to R77). A rejected one has no effect but its response (R307). -/
def State.transact (s : State) (t : Transaction) : State :=
  match t, t.target s.cfg with
  | .read _ _, none => s.respondFree .slverr
  | .read _ _, some g => s.readTarget g
  | .write _ _ _ _, none => s.setPort { resp := .slverr, data := none }
  | .write _ _ _ v, some g => (s.writeTarget v g).setPort { resp := .okay, data := none }

end Sys2Proof.Machine
end

