-- ==== Sys2Proof/Machine/Operands.lean ====
section
/-! DEFINITION. The operand reads of 30_encoding.md R104: each a whole 64-bit register, but for ENCBYTE's byte. A command reads its
operands as they stood at the accepting write (20_memory.md R81); the interlock of 10_state.md R46 keeps them, so the completion step
reads the registers (log 8). -/

namespace Sys2Proof.Machine

/-- OPA (R41, R104). -/
abbrev State.operandA (s : State) : Word := s.regs.opa

/-- OPB (R41, R104). -/
abbrev State.operandB (s : State) : Word := s.regs.opb

/-- OPC, always the modulus (R41, R104). -/
abbrev State.operandC (s : State) : Word := s.regs.opc

/-- `zext_64(x[OPA][7:0])`, ENCBYTE's operand; bits [63:8] of OPA are ignored (R104, R270). -/
abbrev State.operandByte (s : State) : Word := (s.regs.opa.extractLsb' 0 8).setWidth 64

/-- The public key the cipher reads: KEY_N, KEY_E (R43, R104). -/
abbrev State.publicN (s : State) : Word := s.regs.keyN

/-- KEY_E (R43, R104). -/
abbrev State.publicE (s : State) : Word := s.regs.keyE

/-- PCUR (R44, R104). -/
abbrev State.cursor (s : State) : Word := s.regs.pcur

/-- MSG_LEN as a count of bytes (R47, R104). -/
abbrev State.messageLength (s : State) : Nat := s.regs.msgLen.toNat

end Sys2Proof.Machine
end

