-- ==== Sys2Proof/Machine/PrimeSource.lean ====
section
/-! DEFINITION. The prime source and PNEXT: 44_prime_source.md R220 to R226. -/

namespace Sys2Proof.Machine

/-- What NEXTPRIME answers: a prime and the advanced cursor, or EXHAUSTED; each with the counter of free values after it. -/
inductive NextPrime where
  | found (p c1 draws : Nat)
  /-- EXHAUSTED (R222). -/
  | exhausted (draws : Nat)
  deriving DecidableEq, Repr

/-- NEXTPRIME_SEARCH (R222): walk down by one from the candidate until the verdict is 1; below 2 the source is exhausted. -/
def searchDown : Nat → Nat → NextPrime
  | 0, draws => .exhausted draws
  | c + 1, draws =>
    if c + 1 < 2 then .exhausted draws
    else if (verdict (c + 1) draws).1 then .found (c + 1) c (verdict (c + 1) draws).2
    else searchDown c (verdict (c + 1) draws).2

/-- NEXTPRIME_TABLE (R221): the entry at the cursor; the cursor advances and wraps. Where the cursor is no index of the table, the spec
states no entry: a free value stands for it (log 9). -/
def tableNext (entries : List Word) (c draws : Nat) : NextPrime :=
  match entries[c]? with
  | some p => .found p.toNat ((c + 1) % entries.length) draws
  | none => .found (Config.freeWord draws).toNat ((c + 1) % entries.length) (draws + 1)

/-- NEXTPRIME by the variant that `PSRC_MODE` selects (R220). -/
def nextPrime (src : PrimeSource) (c draws : Nat) : NextPrime :=
  match src with
  | .table entries => tableNext entries c draws
  | .search _ => searchDown c draws

/-- PNEXT (R220): RES0 <- the prime, PCUR <- the advanced cursor; on EXHAUSTED neither changes. It raises EXHAUSTED from a cursor below 2
and from no other (R222), also where an earlier KEYGEN or GENERATE has raised it and left PCUR = 2: its outcome is a function of PCUR
(40_execution.md R134, 30_encoding.md R104), against the letter of 60_exceptions.md R306 (log 18). -/
def execPnext (s : State) : Host.Outcome State Fault Refusal :=
  match nextPrime s.cfg.source s.cursor.toNat s.draws with
  | .found p c1 draws => .next (((s.setPrime (BitVec.ofNat 64 p) (BitVec.ofNat 64 c1)).setDraws draws).finish .none)
  | .exhausted draws => .next ((s.setDraws draws).raise .exhausted)

end Sys2Proof.Machine
end

