-- ==== Sys2Proof/Machine/KeyDeriver.lean ====
section
/-! DEFINITION. INVMOD, KEYDERIVE and KEYGEN: 45_key_deriver.md R240 to R257. -/

namespace Sys2Proof.Machine

/-- INVMOD (R240): m ≥ 2, then gcd(a mod m, m) = 1; RES0 <- INV(a, m). OPB is not read. -/
def execInvmod (s : State) : Host.Outcome State Fault Refusal :=
  if s.operandC.toNat < 2 then s.checkFailed State.havocRes0
  else if gcdUnit (s.operandA.toNat % s.operandC.toNat) s.operandC.toNat ≠ 1 then s.checkFailed State.havocRes0
  else .next ((s.setRes0 (BitVec.ofNat 64 (inverseUnit s.operandA.toNat s.operandC.toNat))).finish .none)

/-- KEYDERIVE (R245): KD on p = OPA, q = OPB; the four KEY registers together or none. -/
def execKeyderive (s : State) : Host.Outcome State Fault Refusal :=
  match deriveKey s.operandA.toNat s.operandB.toNat with
  | some k => .next ((s.setKey k).finish .none)
  | none => s.checkFailed State.havocKey

/-- What the sequence of R256 answers, with the counter of free values after it. -/
inductive KeyPhase where
  | derived (p q c2 : Nat) (k : KeyMaterial) (draws : Nat)
  | exhausted (draws : Nat)
  /-- A check of KD failed. -/
  | invalid (draws : Nat)
  deriving DecidableEq, Repr

/-- The sequence of R256: two draws from the prime source, then KD. The first error ends it (40_execution.md R139). -/
def keyPhase (src : PrimeSource) (c draws : Nat) : KeyPhase :=
  match nextPrime src c draws with
  | .exhausted draws1 => .exhausted draws1
  | .found p c1 draws1 =>
    match nextPrime src c1 draws1 with
    | .exhausted draws2 => .exhausted draws2
    | .found q c2 draws2 =>
      match deriveKey p q with
      | some k => .derived p q c2 k draws2
      | none => .invalid draws2

/-- The commit of R256 and R281: RES0, RES1, PCUR and the KEY registers. -/
def State.commitKeyPhase (s : State) (p q c2 : Nat) (k : KeyMaterial) (draws : Nat) : State :=
  ((s.setPrimes (BitVec.ofNat 64 p) (BitVec.ofNat 64 q) (BitVec.ofNat 64 c2)).setKey k).setDraws draws

/-- KEYGEN (R255, R256): all of its write set or none of it. -/
def execKeygen (s : State) : Host.Outcome State Fault Refusal :=
  match keyPhase s.cfg.source s.cursor.toNat s.draws with
  | .derived p q c2 k draws => .next ((s.commitKeyPhase p q c2 k draws).finish .none)
  | .exhausted draws => .next ((s.setDraws draws).raise .exhausted)
  | .invalid draws => (s.setDraws draws).checkFailed State.havocKeyPhase

end Sys2Proof.Machine
end

