-- ==== Sys2Proof/Machine/Cipher.lean ====
section
/-! DEFINITION. ENCBYTE, ENCBUF and GENERATE: 46_cipher.md R270 to R285. -/

namespace Sys2Proof.Machine

/-- ENCBYTE (R270): n ≠ 0; RES0 <- PM(zext_64(OPA[7:0]), KEY_E, KEY_N). -/
def execEncbyte (s : State) : Host.Outcome State Fault Refusal :=
  if s.publicN.toNat = 0 then s.checkFailed State.havocRes0
  else
    .next
      (((s.setRes0 (powModUnit s.operandByte s.publicE s.publicN s.draws).1).setDraws
        (powModUnit s.operandByte s.publicE s.publicN s.draws).2).finish .none)

/-- CT[i] <- PM(MSG[i], e, n) (R277). -/
def State.encryptUnit (e n : Word) (i : Nat) (s : State) : State :=
  (s.writeCt i (powModUnit ((s.msgByte i).setWidth 64) e n s.draws).1).setDraws
    (powModUnit ((s.msgByte i).setWidth 64) e n s.draws).2

/-- The loop of R277 for i = 0 … k−1. -/
def State.encryptUnits (e n : Word) : Nat → State → State
  | 0, s => s
  | k + 1, s => State.encryptUnit e n k (State.encryptUnits e n k s)

/-- ENCBUF (R275 to R277): L ≤ BUF_CAP or RESOURCE; then, if L ≥ 1, n ≠ 0; CT[0 … L−1]. -/
def execEncbuf (s : State) : Host.Outcome State Fault Refusal :=
  if s.cfg.bufCap < s.messageLength then .next (s.raise .resource)
  else if 1 ≤ s.messageLength ∧ s.publicN.toNat = 0 then s.checkFailed (State.havocCt s.messageLength)
  else .next ((State.encryptUnits s.publicE s.publicN s.messageLength s).finish .none)

/-- Free values in GENERATE's write set (R285): the key phase's elements and CT[0 … L−1], of which those below BUF_CAP exist (log 6). -/
def State.havocGenerate (s : State) : State :=
  State.havocCt (min s.messageLength s.cfg.bufCap) s.havocKeyPhase

/-- The cipher phase of R281, with the key just committed: RESOURCE keeps the key phase and writes no CT word (R283). -/
def State.cipherPhase (s : State) : State :=
  if s.cfg.bufCap < s.messageLength then s.raise .resource
  else (State.encryptUnits s.publicE s.publicN s.messageLength s).finish .none

/-- GENERATE (R280, R281): L ≠ 0, the key phase, its commit, the cipher phase. -/
def execGenerate (s : State) : Host.Outcome State Fault Refusal :=
  if s.messageLength = 0 then s.checkFailed State.havocGenerate
  else
    match keyPhase s.cfg.source s.cursor.toNat s.draws with
    | .derived p q c2 k draws => .next (s.commitKeyPhase p q c2 k draws).cipherPhase
    | .exhausted draws => .next ((s.setDraws draws).raise .exhausted)
    | .invalid draws => (s.setDraws draws).checkFailed State.havocGenerate

end Sys2Proof.Machine
end

