-- ==== Sys2Proof/Machine/Gcd.lean ====
section
/-! DEFINITION. GCD: 41_gcd.md R160 to R162. -/

namespace Sys2Proof.Machine

/-- GCD (R160): a ≠ 0, then b ≠ 0; RES0 <- gcd(a, b). -/
def execGcd (s : State) : Host.Outcome State Fault Refusal :=
  if s.operandA.toNat = 0 then s.checkFailed State.havocRes0
  else if s.operandB.toNat = 0 then s.checkFailed State.havocRes0
  else .next ((s.setRes0 (BitVec.ofNat 64 (gcdUnit s.operandA.toNat s.operandB.toNat))).finish .none)

end Sys2Proof.Machine
end

