-- ==== Sys2Proof/Machine/ModArith.lean ====
section
/-! DEFINITION. MULMOD and POWMOD: 42_modarith.md R183 to R186. A modulus of 2^63 or more is an unchecked precondition: the command
completes with ERR 0 and a free value (40_execution.md R143). -/

namespace Sys2Proof.Machine

/-- Commit a result and the counter of free values after it: Success of a command that writes RES0 alone (R136). -/
def State.completeRes0 (s : State) (r : Word × Nat) : State := ((s.setRes0 r.1).setDraws r.2).finish .none

/-- MULMOD (R183): m ≠ 0; RES0 <- MM(a, b, m). -/
def execMulmod (s : State) : Host.Outcome State Fault Refusal :=
  if s.operandC.toNat = 0 then s.checkFailed State.havocRes0
  else .next (s.completeRes0 (mulModUnit s.operandA s.operandB s.operandC s.draws))

/-- POWMOD (R185): m ≠ 0, before the exponent is looked at; RES0 <- PM(x, e, m), which is 1 for e = 0 whatever m is. -/
def execPowmod (s : State) : Host.Outcome State Fault Refusal :=
  if s.operandC.toNat = 0 then s.checkFailed State.havocRes0
  else .next (s.completeRes0 (powModUnit s.operandA s.operandB s.operandC s.draws))

end Sys2Proof.Machine
end

