-- ==== Sys2Proof/Machine/Primality.lean ====
section
/-! DEFINITION. MRTEST: 43_primality.md R200 to R205. -/

namespace Sys2Proof.Machine

/-- The verdict as RES0 holds it: 1 for "prime", 0 for "not prime" (R200, 10_state.md R55). -/
def verdictWord (v : Bool) : Word := if v then 1 else 0

/-- MRTEST (R200): n ≥ 2; RES0 <- MRV(n). -/
def execMrtest (s : State) : Host.Outcome State Fault Refusal :=
  if s.operandA.toNat < 2 then s.checkFailed State.havocRes0
  else
    .next
      (((s.setRes0 (verdictWord (verdict s.operandA.toNat s.draws).1)).setDraws
        (verdict s.operandA.toNat s.draws).2).finish .none)

end Sys2Proof.Machine
end

