-- ==== Sys2Proof/Machine/Dispatch.lean ====
section
/-! DEFINITION. exec: one arm per command of 30_encoding.md R102, each a direct call of its meaning. `exec i s` is the completion step
(40_execution.md R136) of command i in the state s. -/

namespace Sys2Proof.Machine

def exec (i : Instr) (s : State) : Host.Outcome State Fault Refusal :=
  match i with
  | .gcd => Sys2Proof.Machine.execGcd s
  | .mulmod => Sys2Proof.Machine.execMulmod s
  | .powmod => Sys2Proof.Machine.execPowmod s
  | .mrtest => Sys2Proof.Machine.execMrtest s
  | .pnext => Sys2Proof.Machine.execPnext s
  | .invmod => Sys2Proof.Machine.execInvmod s
  | .keyderive => Sys2Proof.Machine.execKeyderive s
  | .keygen => Sys2Proof.Machine.execKeygen s
  | .encbyte => Sys2Proof.Machine.execEncbyte s
  | .encbuf => Sys2Proof.Machine.execEncbuf s
  | .generate => Sys2Proof.Machine.execGenerate s

end Sys2Proof.Machine
end

