-- ==== Sys2Proof/Machine/Sequencer.lean ====
section
/-! DEFINITION. The unit's own turn: 40_execution.md R130, R136, R142, R145. -/

namespace Sys2Proof.Machine

/-- The unit's turn: while BUSY it takes the completion step of the current command; a hung command never does (R142 (a)); with no
command running nothing happens (R50). -/
def unitTurn (s : State) : Host.Outcome State Fault Refusal :=
  match s.phase with
  | .busy (.command i) => exec i s
  | .busy .illegal => .next s.finishIllegal
  | .busy .hung => .next s
  | .idle => .next s
  | .locked => .next s

/-- One event: the head of the list, or the unit's turn when the list is empty (R130, R146, log 2). -/
def stepEvent (s : State) : Host.Outcome State Fault Refusal :=
  match s.inputs.head? with
  | some (.bus t) => .next (s.begin.transact t)
  | some .reset => .next s.begin.applyReset
  | some .unit => unitTurn s.begin
  | none => unitTurn s.begin

/-- The state in which the word `w` has just been accepted (R131) and the unit has the next turn (log 13). -/
def State.withAccepted (s : State) (w : Word) : State :=
  { s.accept w with inputs := .unit :: s.inputs }

end Sys2Proof.Machine
end

