-- ==== Sys2Proof/Machine/Step.lean ====
section
/-! DEFINITION. One step of the machine: the next event of the one total order of host transactions, completion steps and resets
(20_memory.md R80, 40_execution.md R130). -/

namespace Sys2Proof.Machine

/-- One step. A configuration outside R11 and R12 is no RSA64 core and is refused (93 U13, log 10). -/
def step (s : State) : Host.Outcome State Fault Refusal :=
  if s.cfg.wellFormed then stepEvent s else .refused .notAnRsa64Core

/-- `s` with the command word `w` accepted and the unit's turn next: the unit fetches no memory, a command is "consumed entirely at
the accepting write" (R85), so this stands for that write (log 13). -/
def State.withFetchWord (s : State) (nbits w : Nat) : State := s.withAccepted (tableWord nbits w)

end Sys2Proof.Machine
end

