-- ==== Sys2Proof/Safety.lean ====
section
/-! DEFINITION. What claims are stated in terms of: the invariant of every run of a legal configuration, and runs. -/

namespace Sys2Proof

open Machine

/-- The window offsets that hold a byte: MSG[0 … BUF_CAP−1] and CT[0 … BUF_CAP−1] (20_memory.md R78). -/
def inBuffers (c : Params) (a : Nat) : Prop :=
  (msgBase ≤ a ∧ a < msgBase + c.bufCap) ∨ (ctBase ≤ a ∧ a < ctBase + 8 * c.bufCap)

/-- The buffers' bytes are in canonical form and lie in the buffers. -/
structure MemoryInv (s : State) : Prop where
  canonical : s.mem.wf
  inside : ∀ cell ∈ s.mem, inBuffers s.cfg cell.1

/-- "PCUR always holds a legal index" in TABLE mode (10_state.md R45, 44_prime_source.md R221). -/
def CursorInv (s : State) : Prop :=
  ∀ entries, s.cfg.source = .table entries → s.regs.pcur.toNat < entries.length

/-- What STATUS says of the phase: 10_state.md R35 to R38, 40_execution.md R131, 60_exceptions.md R300, R312, R322. -/
structure StatusInv (s : State) : Prop where
  /-- EXIT_CODE is FATAL_CODE when FATAL = 1, else 0 (R35). -/
  exitCode : s.status.exitCode = if s.isFatal then s.cfg.fatalCode else 0
  /-- INVALID_ARG is the code of a fatal completion and of nothing else (R300). -/
  invalidArg : s.status.err = .invalidArg ↔ s.phase = .locked
  /-- With assertion enforcement off no fatal completion ever occurs (R322). -/
  lockedOnlyEnforced : s.phase = .locked → s.cfg.assertEn = true
  /-- A running command shows DONE = 0 and ERR = 0 (R131). -/
  busyQuiet : s.isBusy = true → s.status.done = false ∧ s.status.err = .none
  /-- The current command's opcode is LAST_OP (R50). -/
  busyOpcode : ∀ i, s.phase = .busy (.command i) → s.status.lastOp = opcode i

/-- The invariant of every run of a legal configuration. -/
structure Inv (s : State) : Prop where
  config : s.cfg.wellFormed = true
  memory : MemoryInv s
  /-- With assertion enforcement on. With it off an unconstrained KEYGEN or GENERATE can leave any value in PCUR (R142, log 5). -/
  cursor : s.cfg.assertEn = true → CursorInv s
  status : StatusInv s

/-- One step with a next state. -/
def Steps (s t : State) : Prop := step s = .next t

/-- `t` is reached from `s` in some number of steps. -/
inductive Reaches (s : State) : State → Prop where
  | refl : Reaches s s
  | tail {t u : State} : Reaches s t → Steps t u → Reaches s u

/-- A list of events that holds no reset. -/
def NoReset (s : State) : Prop := Input.reset ∉ s.inputs

end Sys2Proof
end

