-- ==== Sys2Proof/Certificates/Slice0/Obligations.lean ====
section
/-! DEFINITION. The statements for the provers, each `def Obligations.<Name> : Prop`, after the notions they are written with. The
quoted rules are those of spec/; a clause that rests on the model's own choice names its log entry. -/

namespace Sys2Proof.Claims

open Machine

/-! ### Completion steps, written out (40_execution.md R136, R142, 60_exceptions.md R312) -/

/-- The state after `Success` with the data registers `r`: phase IDLE, DONE 1, ERR 0, nothing else changed. -/
def succeeded (s : State) (r : Regs) (draws : Nat) : State :=
  { s with regs := r, draws := draws, phase := .idle, status := { s.status with done := true, err := .none } }

/-- The state after `Error(c)`: phase IDLE, DONE 1, ERR c, nothing else changed. -/
def failed (s : State) (e : ErrCode) (draws : Nat) : State :=
  { s with draws := draws, phase := .idle, status := { s.status with done := true, err := e } }

/-- The state after `Fatal`: phase LOCKED, DONE 1, ERR 1, EXIT_CODE = FATAL_CODE, nothing else changed. -/
def fatal (s : State) (draws : Nat) : State :=
  { s with
    draws := draws
    phase := .locked
    status := { s.status with done := true, err := .invalidArg, exitCode := s.cfg.fatalCode } }

/-- The two outcomes of R142: the command never completes, or it completes with ERR 0, free values in its write set (registers as
`wrote` says, CT[0 … units−1]) and nothing changed outside it. -/
def Unconstrained (s t : State) (wrote : Regs → Prop) (units : Nat) : Prop :=
  (∃ d, t = { s with draws := d, phase := .busy .hung }) ∨
    ∃ r m d, t = { succeeded s r d with mem := m } ∧ wrote r ∧
      ∀ a, ¬(0x80000 ≤ a ∧ a < 0x80000 + 8 * units) → t.readByte a = s.readByte a

/-- What a failed checked precondition leads to (R141, R142, R303). -/
def InvalidArgument (s : State) (o : Host.Outcome State Fault Refusal) (wrote : Regs → Prop) (units : Nat) : Prop :=
  (s.cfg.assertEn = true → ∃ d, o = .next (fatal s d)) ∧
    (s.cfg.assertEn = false → ∃ t, o = .next t ∧ Unconstrained s t wrote units)

/-- Only RES0 differs. -/
def OnlyRes0 (s : State) (r : Regs) : Prop := ∃ v, r = { s.regs with res0 := v }

/-- Only the KEY registers differ. -/
def OnlyKey (s : State) (r : Regs) : Prop :=
  ∃ n phi e d, r = { s.regs with keyN := n, keyPhi := phi, keyE := e, keyD := d }

/-- Only RES0, RES1, PCUR and the KEY registers differ. -/
def OnlyKeyPhase (s : State) (r : Regs) : Prop :=
  ∃ p q c n phi e d,
    r = { s.regs with res0 := p, res1 := q, pcur := c, keyN := n, keyPhi := phi, keyE := e, keyD := d }

/-! ### Number theory -/

/-- The witness ROM (R13). -/
def witnessSet : List Nat := [2, 3, 5, 7, 11, 13, 17, 19, 23]

/-- n is a strong probable prime to the base a: with n − 1 = 2^s · t and t odd, a^t is 1 or some a^(2^r·t), r < s, is n − 1, modulo n. -/
def StrongProbablePrime (n a : Nat) : Prop :=
  ∀ s t, n - 1 = 2 ^ s * t → t % 2 = 1 → a ^ t % n = 1 ∨ ∃ r < s, a ^ (2 ^ r * t) % n = n - 1

/-- "n = 2 or n is odd and is a strong probable prime to every witness a < n" (R204), for n ≥ 2. -/
def Accepted (n : Nat) : Prop :=
  n = 2 ∨ (n % 2 = 1 ∧ ∀ a ∈ witnessSet, a < n → StrongProbablePrime n a)

/-- p is the first candidate at or below c that the test accepts. -/
def LargestAccepted (c p : Nat) : Prop := 2 ≤ p ∧ p ≤ c ∧ Accepted p ∧ ∀ q, p < q → q ≤ c → ¬Accepted q

/-- What NEXTPRIME may answer from the cursor c (R221, R222): in SEARCH mode from c ≥ 2^63 the verdicts of odd candidates are free; in TABLE
mode at a c that is no index the spec states no entry, and any 64-bit value may stand for it (log 9). -/
def NextPrimeIs (src : PrimeSource) (c p c1 : Nat) : Prop :=
  match src with
  | .table entries => c1 = (c + 1) % entries.length ∧ p < 2 ^ 64 ∧ ∀ w, entries[c]? = some w → p = w.toNat
  | .search _ =>
    c1 = p - 1 ∧
      (if c < 2 ^ 63 then LargestAccepted c p
       else (2 ^ 63 ≤ p ∧ p ≤ c ∧ p % 2 = 1) ∨ LargestAccepted (2 ^ 63 - 1) p)

/-- The prime source holds no candidate at the cursor (R222). -/
def Exhausted (src : PrimeSource) (c : Nat) : Prop :=
  match src with
  | .table _ => False
  | .search _ => c < 2

/-- The checks of KD (R246). -/
def KdAccepts (p q : Nat) : Prop := p ≠ 0 ∧ q ≠ 0 ∧ p ≠ q ∧ p * q ≤ 2 ^ 64 - 1 ∧ 3 ≤ (p - 1) * (q - 1)

/-- The KeyMaterial of p and q (R246 to R250): e is the least exponent from 2 up coprime to φ, d its exact inverse. -/
structure KeyFacts (p q e d : Nat) : Prop where
  eRange : 2 ≤ e ∧ e < (p - 1) * (q - 1)
  eCoprime : Nat.gcd e ((p - 1) * (q - 1)) = 1
  eLeast : ∀ x, 2 ≤ x → x < e → Nat.gcd x ((p - 1) * (q - 1)) ≠ 1
  dRange : 1 ≤ d ∧ d ≤ (p - 1) * (q - 1) - 1
  dInverse : d * e % ((p - 1) * (q - 1)) = 1

/-- The registers after a key phase (R256). -/
def keyRegs (r : Regs) (p q c2 e d : Nat) : Regs :=
  { r with
    res0 := BitVec.ofNat 64 p
    res1 := BitVec.ofNat 64 q
    pcur := BitVec.ofNat 64 c2
    keyN := BitVec.ofNat 64 (p * q)
    keyPhi := BitVec.ofNat 64 ((p - 1) * (q - 1))
    keyE := BitVec.ofNat 64 e
    keyD := BitVec.ofNat 64 d }

/-- One ciphertext unit: byte^e mod n, and 1 when e = 0 (R270, R277, R186). -/
def cipherUnit (b e n : Nat) : Nat := if e = 0 then 1 else b ^ e % n

/-- A cursor that is an index of the table, in TABLE mode (R45, R221). -/
def IsIndex (src : PrimeSource) (c : Nat) : Prop := ∀ entries, src = .table entries → c < entries.length

/-- The constraints of 00_scope.md R11 and R12 on a synthesis. -/
structure LegalConfiguration (c : Params) : Prop where
  bufCap : 1 ≤ c.bufCap ∧ c.bufCap ≤ 65536
  fatalCode : 1 ≤ c.fatalCode.toNat
  table : ∀ entries, c.source = .table entries →
    2 ≤ entries.length ∧ entries.length ≤ 2 ^ 32 - 1 ∧ (∀ p ∈ entries, p.toNat.Prime) ∧ entries.Nodup
  seed : ∀ seed, c.source = .search seed → seed.toNat % 2 = 1 ∧ 3 ≤ seed.toNat ∧ seed.toNat ≤ 2 ^ 63 - 1

/-- The sequence of PNEXT (R220): EXHAUSTED, or the prime and the advanced cursor that NEXTPRIME answers. -/
def PnextSequence (s : State) : Prop :=
  (Exhausted s.cfg.source s.regs.pcur.toNat → exec .pnext s = .next (failed s .exhausted s.draws)) ∧
  (¬Exhausted s.cfg.source s.regs.pcur.toNat →
    ∃ p c1 d, NextPrimeIs s.cfg.source s.regs.pcur.toNat p c1 ∧
      exec .pnext s = .next (succeeded s
        { s.regs with res0 := BitVec.ofNat 64 p, pcur := BitVec.ofNat 64 c1 } d))

/-- The sequence of KEYGEN (R256): two draws, either of which may raise EXHAUSTED, then KD; all of the write set or none. -/
def KeygenSequence (s : State) : Prop :=
  (Exhausted s.cfg.source s.regs.pcur.toNat → exec .keygen s = .next (failed s .exhausted s.draws)) ∧
  (¬Exhausted s.cfg.source s.regs.pcur.toNat →
    ∃ p c1, NextPrimeIs s.cfg.source s.regs.pcur.toNat p c1 ∧
      (Exhausted s.cfg.source c1 → ∃ d, exec .keygen s = .next (failed s .exhausted d)) ∧
      (¬Exhausted s.cfg.source c1 →
        ∃ q c2, NextPrimeIs s.cfg.source c1 q c2 ∧
          (KdAccepts p q →
            ∃ e d draws, KeyFacts p q e d ∧
              exec .keygen s = .next (succeeded s (keyRegs s.regs p q c2 e d) draws)) ∧
          (¬KdAccepts p q → InvalidArgument s (exec .keygen s) (OnlyKeyPhase s) 0)))

/-- PNEXT k times. -/
def pnextTimes : Nat → State → Host.Outcome State Fault Refusal
  | 0, s => .next s
  | k + 1, s =>
    match pnextTimes k s with
    | .next t => exec .pnext t
    | o => o

/-! ### The port -/

/-- A whole-word aligned read. -/
def rd (off : BitVec 20) : Transaction := .read off 8

/-- A whole-word aligned write. -/
def wr (off : BitVec 20) (v : Word) : Transaction := .write off 8 0xFF v

/-- The response to an accepted read. -/
def okData (v : Word) : Option BusResponse := some { resp := .okay, data := some v }

/-- The response to an accepted write. -/
def okWrite : BusResponse := { resp := .okay, data := none }

end Sys2Proof.Claims

open Sys2Proof Sys2Proof.Machine Sys2Proof.Claims

/-! ### Encoding -/

/-- R102, R109 and the illegal words of R105: the words of the table, written out. -/
def Obligations.TableWordsDecode : Prop :=
  decode 0x0000000000000001#64 = .command .gcd ∧
  decode 0x0000000000000002#64 = .command .mulmod ∧
  decode 0x0000000000000003#64 = .command .powmod ∧
  decode 0x0000000000000004#64 = .command .mrtest ∧
  decode 0x0000000000000005#64 = .command .pnext ∧
  decode 0x0000000000000006#64 = .command .invmod ∧
  decode 0x0000000000000007#64 = .command .keyderive ∧
  decode 0x0000000000000008#64 = .command .keygen ∧
  decode 0x0000000000000009#64 = .command .encbyte ∧
  decode 0x000000000000000A#64 = .command .encbuf ∧
  decode 0x000000000000000B#64 = .command .generate ∧
  decode 0x0000000000000101#64 = .illegal .reservedBits

/-- Decoding and encoding agree both ways, over all 2^64 words: each command has exactly one word. -/
def Obligations.EveryCommandHasExactlyOneWord : Prop :=
  ∀ (w : Word) (i : Instr), i.wellFormed = true → (decode w = .command i ↔ w = encode i)

/-- R103: every word decodes to a command or to illegal, and to a command exactly when RSVD = 0 and OP is 0x01 … 0x0B. -/
def Obligations.LegalWordsAreTheTables : Prop :=
  ∀ w : Word,
    ((∃ i, decode w = .command i) ↔ w.toNat / 256 = 0 ∧ 1 ≤ w.toNat % 256 ∧ w.toNat % 256 ≤ 11) ∧
      ((∃ why, decode w = .illegal why) ↔ ¬∃ i, decode w = .command i)

/-! ### The life cycle of a command -/

/-- R131: an accepted CMD write. -/
def Obligations.AcceptingWriteStartsTheCommand : Prop :=
  ∀ (s : State) (w : Word), s.phase = .idle →
    ∃ current,
      s.transact (wr 0x00010 w) =
        { s with
          phase := .busy current
          status := { s.status with done := false, err := .none, lastOp := w.extractLsb' 0 8 }
          port := some okWrite } ∧
      (∀ i, decode w = .command i → current = .command i) ∧
      (∀ why, decode w = .illegal why → current = .illegal)

/-- A step runs the decoded command: the word accepted at CMD is decoded, and the unit's next turn is `exec` of it. The start of the
step (`State.begin`) takes the event off the list and may emit diagnostic events (R331). The third clause is about `withFetchWord`, the
model's own operation (log 13): it stands for the accepting write and accepts the word in every phase, where R131 accepts in IDLE only. -/
def Obligations.StepRunsTheDecodedCommand : Prop :=
  (∀ (s : State) (i : Instr), s.cfg.wellFormed = true → s.phase = .busy (.command i) →
    s.inputs.head? = none ∨ s.inputs.head? = some .unit → step s = exec i s.begin) ∧
  (∀ (s : State) (w : Word) (i : Instr) (rest : List Input), s.cfg.wellFormed = true → s.phase = .idle →
    s.inputs = .bus (wr 0x00010 w) :: .unit :: rest → decode w = .command i →
    ∃ t, step s = .next t ∧ t.regs = s.regs ∧ t.mem = s.mem ∧ t.cfg = s.cfg ∧ t.inputs = .unit :: rest ∧
      step t = exec i t.begin) ∧
  (∀ (s : State) (n : Nat) (i : Instr), s.cfg.wellFormed = true → decodeTableWord 64 n = some i →
    step (s.withFetchWord 64 n) = exec i (s.withFetchWord 64 n).begin) ∧
  (∀ s : State,
    s.begin.inputs = s.inputs.tail ∧ s.begin.cfg = s.cfg ∧ s.begin.phase = s.phase ∧ s.begin.status = s.status ∧
    s.begin.irqEn = s.irqEn ∧ s.begin.regs = s.regs ∧ s.begin.mem = s.mem ∧ s.begin.port = s.port ∧
    s.begin.epoch = s.epoch ∧ (s.cfg.debugEn = false → s.begin.dbg = s.dbg ∧ s.begin.draws = s.draws))

/-- The other events of a step: a host transaction and reset (R130, 70_reset_and_hazards.md R340; that reset is one step is log 14), and a
turn in which the unit has nothing to do, which is `State.begin` alone: it takes the event off the list (log 2) and, with DEBUG_EN = 1,
moves the diagnostic count and the counter of free values (log 3, log 11). -/
def Obligations.StepTakesTheNextEvent : Prop :=
  (∀ (s : State) (t : Transaction), s.cfg.wellFormed = true → s.inputs.head? = some (.bus t) →
    step s = .next (s.begin.transact t)) ∧
  (∀ s : State, s.cfg.wellFormed = true → s.inputs.head? = some .reset → step s = .next s.begin.applyReset) ∧
  (∀ s : State, s.cfg.wellFormed = true → s.phase = .idle ∨ s.phase = .locked →
    s.inputs.head? = none ∨ s.inputs.head? = some .unit → step s = .next s.begin)

/-- R145: "When `current` = ILLEGAL the outcome is `Error(3)`, whatever `ASSERT_EN` is." -/
def Obligations.IllegalWordCompletesWithCodeThree : Prop :=
  ∀ s : State, s.cfg.wellFormed = true → s.phase = .busy .illegal →
    s.inputs.head? = none ∨ s.inputs.head? = some .unit →
    step s = .next (failed s.begin .illegalCmd s.begin.draws)

/-- R142 (a): a command that never completes stays BUSY until reset, whatever the host does. -/
def Obligations.HungCommandStaysBusyUntilReset : Prop :=
  ∀ s t : State, s.phase = .busy .hung → step s = .next t →
    (s.inputs.head? = some .reset ∧ t.phase = .idle) ∨
      (t.phase = .busy .hung ∧ t.regs = s.regs ∧ t.mem = s.mem ∧ t.status.err = s.status.err)

/-- R146: with no more host events the unit completes the command, when no checked precondition can be skipped. -/
def Obligations.QuietHostSeesCompletion : Prop :=
  ∀ (s : State) (i : Instr), s.cfg.wellFormed = true → s.cfg.assertEn = true → s.phase = .busy (.command i) → s.inputs = [] →
    ∃ t, step s = .next t ∧ t.isBusy = false ∧ t.status.done = true

/-- The machine never stops: in a legal configuration every step answers a state. -/
def Obligations.EveryStepAnswersAState : Prop := ∀ s : State, s.cfg.wellFormed = true → ∃ t, step s = .next t

/-- 00_scope.md R11, R12: the configurations that run are those the spec allows, every table entry a prime among the conditions. That any
other is refused is the model's choice (log 10), where R12 says that a model may refuse. -/
def Obligations.OnlyLegalConfigurationsRun : Prop :=
  (∀ c : Params, c.wellFormed = true ↔ LegalConfiguration c) ∧
    ∀ s : State, ¬LegalConfiguration s.cfg → step s = .refused .notAnRsa64Core

/-! ### Invariants -/

/-- Every state right after reset, in every legal configuration, meets the invariant. -/
def Obligations.ResetMeetsTheInvariant : Prop :=
  Inv State.reset ∧ ∀ c : Params, c.wellFormed = true → Inv (State.powerOn c)

/-- Every step keeps the invariant: memory in canonical form and inside the buffers, PCUR a legal index in TABLE mode with ASSERT_EN = 1,
EXIT_CODE and the code INVALID_ARG exactly in LOCKED, no LOCKED without assertion enforcement, a quiet STATUS while BUSY. The model's
choices it rests on: the canonical form is log 7; that an unconstrained GENERATE stays inside the buffers is log 6; that PCUR is bound
with ASSERT_EN = 1 only is log 5. -/
def Obligations.EveryStepKeepsTheInvariant : Prop := ∀ s t : State, Inv s → step s = .next t → Inv t

/-- 10_state.md R45: a legal PCUR stays a legal index in TABLE mode, whatever happens, but for the unit's turn of a KEYGEN or GENERATE with
ASSERT_EN = 0, whose unconstrained outcome leaves any value there (R142 over R45: log 5). -/
def Obligations.CursorStaysAnIndexUnlessUnconstrained : Prop :=
  ∀ s t : State, s.cfg.wellFormed = true → IsIndex s.cfg.source s.regs.pcur.toNat → step s = .next t →
    IsIndex t.cfg.source t.regs.pcur.toNat ∨
      (s.cfg.assertEn = false ∧ (s.phase = .busy (.command .keygen) ∨ s.phase = .busy (.command .generate)) ∧
        (s.inputs.head? = none ∨ s.inputs.head? = some .unit))

/-- R38: FATAL and EXIT_CODE are set by a fatal completion, and only reset clears them. -/
def Obligations.FatalIsStickyUntilReset : Prop :=
  (∀ (i : Instr) (s t : State), exec i s = .next t → t.isFatal = true ∨ (t.status.err = .invalidArg ∧ s.status.err = .none) →
    t.isFatal = true ∧ t.status.exitCode = s.cfg.fatalCode) ∧
  (∀ s t : State, s.phase = .locked → step s = .next t →
    (s.inputs.head? = some .reset ∧ t.phase = .idle ∧ t.status.exitCode = 0) ∨
      (t.phase = .locked ∧ t.status.exitCode = s.status.exitCode ∧ t.status.err = s.status.err ∧ t.regs = s.regs ∧
        t.mem = s.mem))

/-- R322: with ASSERT_EN = 0 no fatal completion ever occurs, and the fatal interrupt source stays quiet. -/
def Obligations.NoFatalWithoutEnforcement : Prop :=
  ∀ s t : State, s.cfg.assertEn = false → s.isFatal = false → step s = .next t →
    t.isFatal = false ∧ t.cfg.assertEn = false ∧ t.irq = (t.status.done && t.irqEn.doneIe)

/-- R140: a command whose outcome is an error writes nothing of its write set, but for GENERATE's committed key phase. -/
def Obligations.FailedCommandWritesNothing : Prop :=
  ∀ (i : Instr) (s t : State), exec i s = .next t → t.isBusy = false → t.status.err ≠ .none →
    ¬(i = .generate ∧ t.status.err = .resource) →
    t.regs = s.regs ∧ ∀ a, t.readByte a = s.readByte a

/-- No command writes what belongs to the host: the operands, MSG_LEN, the message, IRQ_EN, WERR, LAST_OP, the configuration
(10_state.md R41, R43, R47, R48). -/
def Obligations.HostOwnedStateSurvivesEveryCommand : Prop :=
  ∀ (i : Instr) (s t : State), s.cfg.bufCap ≤ 65536 → exec i s = .next t →
    t.regs.opa = s.regs.opa ∧ t.regs.opb = s.regs.opb ∧ t.regs.opc = s.regs.opc ∧ t.regs.msgLen = s.regs.msgLen ∧
    t.irqEn = s.irqEn ∧ t.status.werr = s.status.werr ∧ t.status.lastOp = s.status.lastOp ∧ t.cfg = s.cfg ∧
    t.port = s.port ∧ t.inputs = s.inputs ∧ t.epoch = s.epoch ∧
    (∀ k < 65536, t.msgByte k = s.msgByte k) ∧
    ∀ a, ¬(0x80000 ≤ a ∧ a < 0x80000 + 8 * s.cfg.bufCap) → t.readByte a = s.readByte a

/-- R300, 93 U14: STATUS.ERR never reads 5 … 15. -/
def Obligations.ErrorCodeIsAtMostFour : Prop := ∀ s : State, (s.statusWord.extractLsb' 4 4).toNat ≤ 4

/-! ### The port -/

/-- R78: the address map. -/
def Obligations.AddressMapIsTheWindow : Prop :=
  ∀ c : Params, c.bufCap ≤ 65536 →
    (targetAt c 0x00000 = some .config ∧ targetAt c 0x00008 = some .caps ∧ targetAt c 0x00010 = some .cmd ∧
      targetAt c 0x00018 = some .status ∧ targetAt c 0x00020 = some .irqEn ∧ targetAt c 0x00028 = some .opa ∧
      targetAt c 0x00030 = some .opb ∧ targetAt c 0x00038 = some .opc ∧ targetAt c 0x00040 = some .res0 ∧
      targetAt c 0x00048 = some .res1 ∧ targetAt c 0x00050 = some .keyN ∧ targetAt c 0x00058 = some .keyPhi ∧
      targetAt c 0x00060 = some .keyE ∧ targetAt c 0x00068 = some .keyD ∧ targetAt c 0x00070 = some .pcur ∧
      targetAt c 0x00078 = some .msgLen) ∧
    (∀ k, k < (c.bufCap + 7) / 8 → targetAt c (0x10000 + 8 * k) = some (.msg k)) ∧
    (∀ i, i < c.bufCap → targetAt c (0x80000 + 8 * i) = some (.ct i)) ∧
    (∀ off, 0x80 ≤ off → off < 0x10000 → targetAt c off = none) ∧
    (∀ off, 0x10000 + 8 * ((c.bufCap + 7) / 8) ≤ off → off < 0x80000 → targetAt c off = none) ∧
    (∀ off, 0x80000 + 8 * c.bufCap ≤ off → targetAt c off = none)

/-- R72, R73, R77: a transaction of another size, with a strobe missing, misaligned, or to a reserved offset gets SLVERR, has no
effect, and for a read returns a free value. -/
def Obligations.RejectedTransactionHasNoEffect : Prop :=
  (∀ (s : State) (off : BitVec 20) (bytes : Nat),
    bytes ≠ 8 ∨ off.toNat % 8 ≠ 0 ∨ targetAt s.cfg off.toNat = none →
    ∃ v d, s.transact (.read off bytes) = { s with port := some { resp := .slverr, data := some v }, draws := d }) ∧
  (∀ (s : State) (off : BitVec 20) (bytes : Nat) (strobes : BitVec 8) (v : Word),
    bytes ≠ 8 ∨ strobes ≠ 0xFF ∨ off.toNat % 8 ≠ 0 ∨ targetAt s.cfg off.toNat = none →
    s.transact (.write off bytes strobes v) = { s with port := some { resp := .slverr, data := none } })

/-- 20_memory.md R76: a read has no side effect on any offset. -/
def Obligations.ReadsChangeOnlyThePort : Prop :=
  ∀ (s : State) (off : BitVec 20) (bytes : Nat),
    ∃ r d, s.transact (.read off bytes) = { s with port := some r, draws := d }

/-- R137, first half: while BUSY a read of a result, key or cursor register or of CTBUF returns a free value. -/
def Obligations.BusyReadsOfResultsAreFree : Prop :=
  ∀ (s : State) (off : BitVec 20), s.isBusy = true → s.cfg.bufCap ≤ 65536 →
    off ∈ [0x00040#20, 0x00048, 0x00050, 0x00058, 0x00060, 0x00068, 0x00070] ∨
      (0x80000 ≤ off.toNat ∧ off.toNat < 0x80000 + 8 * s.cfg.bufCap ∧ off.toNat % 8 = 0) →
    s.transact (rd off) =
      { s with port := okData (Config.freeWord s.draws), draws := s.draws + 1 }

/-- R137, second half, and R31: in every phase CONFIG to OPC, MSG_LEN and MSGBUF read their current value, and outside BUSY every
register and every ciphertext unit does. `State.msgWord` is the word of eight message bytes; MessageWordsPackLittleEndian says which. -/
def Obligations.ReadsReturnTheCurrentValue : Prop :=
  ∀ s : State,
    (s.transact (rd 0x00000) = { s with port := okData (configWord s.cfg) } ∧
      s.transact (rd 0x00008) = { s with port := okData (capsWord s.cfg) } ∧
      s.transact (rd 0x00010) = { s with port := okData 0 } ∧
      s.transact (rd 0x00018) = { s with port := okData s.statusWord } ∧
      s.transact (rd 0x00020) = { s with port := okData s.irqEnWord } ∧
      s.transact (rd 0x00028) = { s with port := okData s.regs.opa } ∧
      s.transact (rd 0x00030) = { s with port := okData s.regs.opb } ∧
      s.transact (rd 0x00038) = { s with port := okData s.regs.opc } ∧
      s.transact (rd 0x00078) = { s with port := okData s.regs.msgLen } ∧
      ∀ k, k < (s.cfg.bufCap + 7) / 8 → s.cfg.bufCap ≤ 65536 →
        s.transact (rd (BitVec.ofNat 20 (0x10000 + 8 * k))) = { s with port := okData (s.msgWord k) }) ∧
    (s.isBusy = false →
      s.transact (rd 0x00040) = { s with port := okData s.regs.res0 } ∧
      s.transact (rd 0x00048) = { s with port := okData s.regs.res1 } ∧
      s.transact (rd 0x00050) = { s with port := okData s.regs.keyN } ∧
      s.transact (rd 0x00058) = { s with port := okData s.regs.keyPhi } ∧
      s.transact (rd 0x00060) = { s with port := okData s.regs.keyE } ∧
      s.transact (rd 0x00068) = { s with port := okData s.regs.keyD } ∧
      s.transact (rd 0x00070) = { s with port := okData s.regs.pcur } ∧
      ∀ i, i < s.cfg.bufCap → s.cfg.bufCap ≤ 65536 →
        s.transact (rd (BitVec.ofNat 20 (0x80000 + 8 * i))) = { s with port := okData (s.ctUnit i) })

/-- 10_state.md R41, R43, R47: a host write while IDLE to an operand, key or length register stores the whole word. -/
def Obligations.IdleWriteStoresTheWord : Prop :=
  ∀ (s : State) (v : Word), s.phase = .idle →
    s.transact (wr 0x00028 v) = { s with regs := { s.regs with opa := v }, port := some okWrite } ∧
    s.transact (wr 0x00030 v) = { s with regs := { s.regs with opb := v }, port := some okWrite } ∧
    s.transact (wr 0x00038 v) = { s with regs := { s.regs with opc := v }, port := some okWrite } ∧
    s.transact (wr 0x00050 v) = { s with regs := { s.regs with keyN := v }, port := some okWrite } ∧
    s.transact (wr 0x00058 v) = { s with regs := { s.regs with keyPhi := v }, port := some okWrite } ∧
    s.transact (wr 0x00060 v) = { s with regs := { s.regs with keyE := v }, port := some okWrite } ∧
    s.transact (wr 0x00068 v) = { s with regs := { s.regs with keyD := v }, port := some okWrite } ∧
    s.transact (wr 0x00078 v) = { s with regs := { s.regs with msgLen := v }, port := some okWrite }

/-- R45: a host write to PCUR while IDLE. -/
def Obligations.CursorWriteStoresOnlyLegalIndices : Prop :=
  ∀ (s : State) (v : Word), s.phase = .idle →
    (∀ seed, s.cfg.source = .search seed →
      s.transact (wr 0x00070 v) = { s with regs := { s.regs with pcur := v }, port := some okWrite }) ∧
    (∀ entries, s.cfg.source = .table entries →
      (v.toNat < entries.length →
        s.transact (wr 0x00070 v) = { s with regs := { s.regs with pcur := v }, port := some okWrite }) ∧
      (entries.length ≤ v.toNat →
        s.transact (wr 0x00070 v) = { s with status := { s.status with werr := true }, port := some okWrite }))

/-- R46, R132: the ignored writes. -/
def Obligations.IgnoredWriteOnlySetsWerr : Prop :=
  ∀ (s : State) (off : BitVec 20) (v : Word) (g : Target), (wr off v).target s.cfg = some g →
    ((g ∈ [Target.config, .caps, .res0, .res1] ∨ ∃ i, g = .ct i) ∨
      (s.phase ≠ .idle ∧ g ≠ .status ∧ g ≠ .irqEn) ∨
      (∃ entries, g = .pcur ∧ s.cfg.source = .table entries ∧ entries.length ≤ v.toNat)) →
    s.transact (wr off v) = { s with status := { s.status with werr := true }, port := some okWrite }

/-- R39: a host write to STATUS, in every phase, clears DONE by bit 1 and WERR by bit 3 and changes nothing else. -/
def Obligations.StatusWriteClearsDoneAndWerr : Prop :=
  ∀ (s : State) (v : Word),
    s.transact (wr 0x00018 v) =
      { s with
        status :=
          { s.status with
            done := if v.toNat / 2 % 2 = 1 then false else s.status.done
            werr := if v.toNat / 8 % 2 = 1 then false else s.status.werr }
        port := some okWrite }

/-- R40: IRQ_EN stores bits [1:0] in every phase, reads 0 in the rest, and is 0 after reset. -/
def Obligations.IrqEnableStoresTwoBits : Prop :=
  (∀ (s : State) (v : Word),
    s.transact (wr 0x00020 v) =
      { s with
        irqEn := { doneIe := decide (v.toNat % 2 = 1), fatalIe := decide (v.toNat / 2 % 2 = 1) }
        port := some okWrite } ∧
    (s.transact (wr 0x00020 v)).irqEnWord.toNat = v.toNat % 4) ∧
  ∀ c : Params, (State.powerOn c).irqEnWord = 0

/-- R35: the layout of STATUS, and R300: the number of each error code in it. -/
def Obligations.StatusWordHasItsLayout : Prop :=
  ∀ s : State,
    (s.status.err = .none → s.statusWord.toNat / 16 % 16 = 0) ∧
    (s.status.err = .invalidArg → s.statusWord.toNat / 16 % 16 = 1) ∧
    (s.status.err = .resource → s.statusWord.toNat / 16 % 16 = 2) ∧
    (s.status.err = .illegalCmd → s.statusWord.toNat / 16 % 16 = 3) ∧
    (s.status.err = .exhausted → s.statusWord.toNat / 16 % 16 = 4) ∧
    s.statusWord.toNat =
      (if s.isBusy then 1 else 0) + (if s.status.done then 2 else 0) + (if s.phase = .locked then 4 else 0) +
        (if s.status.werr then 8 else 0) + 16 * s.status.err.bits.toNat + 256 * s.status.exitCode.toNat +
        65536 * s.status.lastOp.toNat

/-- R32, R33: CONFIG and CAPS report the parameters, PSRC_MODE 0 and PTABLE_LEN in TABLE mode, PSRC_MODE 1 and 0 in SEARCH mode,
and a write to either is ignored and sets WERR. -/
def Obligations.ConfigAndCapsAreHardwired : Prop :=
  ∀ s : State, s.cfg.wellFormed = true →
    (∀ entries, s.cfg.source = .table entries →
      (configWord s.cfg).toNat = (if s.cfg.assertEn then 1 else 0) + (if s.cfg.debugEn then 2 else 0) + 256 ∧
        (capsWord s.cfg).toNat = s.cfg.bufCap + 2 ^ 32 * entries.length) ∧
    (∀ seed, s.cfg.source = .search seed →
      (configWord s.cfg).toNat = (if s.cfg.assertEn then 1 else 0) + (if s.cfg.debugEn then 2 else 0) + 4 + 256 ∧
        (capsWord s.cfg).toNat = s.cfg.bufCap) ∧
    s.transact (rd 0x00000) = { s with port := okData (configWord s.cfg) } ∧
    s.transact (rd 0x00008) = { s with port := okData (capsWord s.cfg) } ∧
    ∀ v, s.transact (wr 0x00000 v) = { s with status := { s.status with werr := true }, port := some okWrite } ∧
      s.transact (wr 0x00008 v) = { s with status := { s.status with werr := true }, port := some okWrite }

/-- R48, R74: a MSGBUF word packs eight message bytes, least significant first; bytes at indices ≥ BUF_CAP read 0 and are discarded. -/
def Obligations.MessageWordsPackLittleEndian : Prop :=
  ∀ (s : State) (k : Nat) (v : Word), s.cfg.bufCap ≤ 65536 → k < (s.cfg.bufCap + 7) / 8 →
    (s.phase = .idle →
      ∃ t, s.transact (wr (BitVec.ofNat 20 (0x10000 + 8 * k)) v) = t ∧
        t = { s with mem := t.mem, port := some okWrite } ∧
        (∀ j < 8, 8 * k + j < s.cfg.bufCap → t.msgByte (8 * k + j) = v.extractLsb' (8 * j) 8) ∧
        ∀ a, ¬(∃ j < 8, 8 * k + j < s.cfg.bufCap ∧ a = 0x10000 + 8 * k + j) → t.readByte a = s.readByte a) ∧
    ∃ data, s.transact (rd (BitVec.ofNat 20 (0x10000 + 8 * k))) = { s with port := okData data } ∧
      ∀ j < 8, data.extractLsb' (8 * j) 8 = if 8 * k + j < s.cfg.bufCap then s.msgByte (8 * k + j) else 0

/-- R81: no host transaction reaches a running command: its inputs, and its outcome but for the numbering of free values, are those
of the accepting write. -/
def Obligations.HostCannotReachARunningCommand : Prop :=
  ∀ (s : State) (t : Transaction), s.isBusy = true →
    (s.transact t).regs = s.regs ∧ (s.transact t).mem = s.mem ∧ (s.transact t).phase = s.phase ∧
    (s.transact t).cfg = s.cfg ∧
    ∀ (i : Instr) (u v : State), (s.transact t).draws = s.draws → exec i s = .next u → exec i (s.transact t) = .next v →
      v.regs = u.regs ∧ v.mem = u.mem ∧ v.phase = u.phase ∧ v.status.err = u.status.err

/-- R320: the interrupt line, from STATUS and IRQ_EN as they read. -/
def Obligations.InterruptLineFollowsStatus : Prop :=
  ∀ s : State,
    s.irq =
      ((s.statusWord.getLsbD 1 && s.irqEnWord.getLsbD 0) || (s.statusWord.getLsbD 2 && s.irqEnWord.getLsbD 1))

/-- R56: what reset leaves, from every state. -/
def Obligations.ResetLeavesTheResetValues : Prop :=
  ∀ s : State, s.cfg.wellFormed = true → s.inputs.head? = some .reset →
    ∃ t, step s = .next t ∧ t.phase = .idle ∧ t.statusWord = 0 ∧ t.irqEnWord = 0 ∧ t.irq = false ∧ t.cfg = s.cfg ∧
      t.regs.opa = 0 ∧ t.regs.opb = 0 ∧ t.regs.opc = 0 ∧ t.regs.res0 = 0 ∧ t.regs.res1 = 0 ∧ t.regs.keyN = 0 ∧
      t.regs.keyPhi = 0 ∧ t.regs.keyE = 0 ∧ t.regs.keyD = 0 ∧ t.regs.msgLen = 0 ∧
      (∀ entries, s.cfg.source = .table entries → t.regs.pcur = 0) ∧
      ∀ seed, s.cfg.source = .search seed → t.regs.pcur = seed

/-- 70_reset_and_hazards.md R340: after reset no byte of either buffer is known: each is a free value of the new reset. That a free
value is named by the number of the reset and the offset is the model's choice (log 7); that the events to come and the counters
go on is log 14. -/
def Obligations.ResetForgetsTheBuffers : Prop :=
  ∀ s : State, s.cfg.wellFormed = true → s.inputs.head? = some .reset →
    ∃ t, step s = .next t ∧ t.mem = [] ∧ (∀ a, t.readByte a = Config.resetByte (s.epoch + 1) a) ∧ t.inputs = s.inputs.tail

/-- R279: with DEBUG_EN = 1 a RESOURCE error emits at least one diagnostic event; with DEBUG_EN = 0 no step emits any. -/
def Obligations.ResourceErrorNotifiesTheDiagnostics : Prop :=
  (∀ s t : State, s.cfg.debugEn = false → step s = .next t → t.dbg = s.dbg) ∧
  (∀ (i : Instr) (s t : State), s.phase = .busy (.command i) → s.status.err = .none → s.cfg.debugEn = true →
    step s = .next t → t.status.err = .resource → s.dbg + 1 ≤ t.dbg)

/-! ### The commands -/

/-- R160, R162: GCD. -/
def Obligations.GcdWritesTheGreatestCommonDivisor : Prop :=
  decode 0x0000000000000001#64 = .command .gcd ∧
  ∀ s : State,
    (s.regs.opa.toNat ≠ 0 → s.regs.opb.toNat ≠ 0 →
      exec .gcd s = .next (succeeded s
        { s.regs with res0 := BitVec.ofNat 64 (Nat.gcd s.regs.opa.toNat s.regs.opb.toNat) } s.draws)) ∧
    (s.regs.opa.toNat = 0 ∨ s.regs.opb.toNat = 0 → InvalidArgument s (exec .gcd s) (OnlyRes0 s) 0)

/-- R183, R184: MULMOD. -/
def Obligations.MulmodWritesTheExactProduct : Prop :=
  decode 0x0000000000000002#64 = .command .mulmod ∧
  ∀ s : State,
    (1 ≤ s.regs.opc.toNat → s.regs.opc.toNat ≤ 2 ^ 63 - 1 →
      exec .mulmod s = .next (succeeded s
        { s.regs with res0 := BitVec.ofNat 64 (s.regs.opa.toNat * s.regs.opb.toNat % s.regs.opc.toNat) } s.draws)) ∧
    (2 ^ 63 ≤ s.regs.opc.toNat → ∃ v d, exec .mulmod s = .next (succeeded s { s.regs with res0 := v } d)) ∧
    (s.regs.opc.toNat = 0 → InvalidArgument s (exec .mulmod s) (OnlyRes0 s) 0)

/-- R181: the doubling multiplier, every variable in 64 bits, is exact for every modulus in range. -/
def Obligations.DoublingMultiplierIsExact : Prop :=
  ∀ a b m : Word, 1 ≤ m.toNat → m.toNat ≤ 2 ^ 63 - 1 →
    (mulModDoubling a b m).toNat = a.toNat * b.toNat % m.toNat

/-- R185, R186: POWMOD. -/
def Obligations.PowmodWritesTheExactPower : Prop :=
  decode 0x0000000000000003#64 = .command .powmod ∧
  ∀ s : State,
    (s.regs.opb.toNat = 0 → s.regs.opc.toNat ≠ 0 →
      exec .powmod s = .next (succeeded s { s.regs with res0 := 1 } s.draws)) ∧
    (s.regs.opb.toNat ≠ 0 → 1 ≤ s.regs.opc.toNat → s.regs.opc.toNat ≤ 2 ^ 63 - 1 →
      exec .powmod s = .next (succeeded s
        { s.regs with res0 := BitVec.ofNat 64 (s.regs.opa.toNat ^ s.regs.opb.toNat % s.regs.opc.toNat) } s.draws)) ∧
    (s.regs.opb.toNat ≠ 0 → 2 ^ 63 ≤ s.regs.opc.toNat →
      ∃ v d, exec .powmod s = .next (succeeded s { s.regs with res0 := v } d)) ∧
    (s.regs.opc.toNat = 0 → InvalidArgument s (exec .powmod s) (OnlyRes0 s) 0)

/-- 43_primality.md R200, R201: MRTEST. Below 2, with ASSERT_EN = 0, a completion leaves any value in RES0 (R142 over R200's "always 0 or 1":
log 17). -/
def Obligations.MrtestWritesTheVerdict : Prop :=
  decode 0x0000000000000004#64 = .command .mrtest ∧
  ∀ s : State,
    (2 ≤ s.regs.opa.toNat → s.regs.opa.toNat % 2 = 0 ∨ s.regs.opa.toNat < 2 ^ 63 →
      (Accepted s.regs.opa.toNat → exec .mrtest s = .next (succeeded s { s.regs with res0 := 1 } s.draws)) ∧
      (¬Accepted s.regs.opa.toNat → exec .mrtest s = .next (succeeded s { s.regs with res0 := 0 } s.draws))) ∧
    (2 ^ 63 ≤ s.regs.opa.toNat → s.regs.opa.toNat % 2 = 1 →
      ∃ v d, (v = 0 ∨ v = 1) ∧ exec .mrtest s = .next (succeeded s { s.regs with res0 := v } d)) ∧
    (s.regs.opa.toNat < 2 → InvalidArgument s (exec .mrtest s) (OnlyRes0 s) 0)

/-- R205: the verdicts the source lists. -/
def Obligations.MrtestKeepsTheListedVerdicts : Prop :=
  ∀ s : State,
    (s.regs.opa.toNat ∈ [2, 3, 5, 7, 11, 13, 17, 19, 23, 29, 31, 97] →
      exec .mrtest s = .next (succeeded s { s.regs with res0 := 1 } s.draws)) ∧
    (s.regs.opa.toNat ∈ [4, 6, 8, 9, 91, 221, 341] →
      exec .mrtest s = .next (succeeded s { s.regs with res0 := 0 } s.draws))

/-- 43_primality.md R204: the verdict 1 is no proof of primality; this composite gets it. -/
def Obligations.MrtestAcceptsAComposite : Prop :=
  149491 * 747451 * 34233211 = 3825123056546413051 ∧
  ∀ s : State, s.regs.opa.toNat = 3825123056546413051 →
    exec .mrtest s = .next (succeeded s { s.regs with res0 := 1 } s.draws)

/-- Every prime in range gets the verdict 1, so the verdict 0 is a proof of compositeness (43_primality.md R201, R204). -/
def Obligations.EveryPrimeInRangePasses : Prop :=
  ∀ s : State, s.regs.opa.toNat.Prime → s.regs.opa.toNat < 2 ^ 63 →
    exec .mrtest s = .next (succeeded s { s.regs with res0 := 1 } s.draws)

/-- 44_prime_source.md R220, R221, R222: PNEXT, from every cursor of SEARCH mode and every index of TABLE mode. That it succeeds from PCUR = 2
also after a KEYGEN or GENERATE which exhausted at its second draw is the model's choice (log 18): R220 and R222 over the letter of
60_exceptions.md R306. -/
def Obligations.PnextWritesTheNextPrime : Prop :=
  decode 0x0000000000000005#64 = .command .pnext ∧
  ∀ s : State, IsIndex s.cfg.source s.regs.pcur.toNat → PnextSequence s

/-- R223: in SEARCH mode successive results strictly decrease. -/
def Obligations.SearchResultsStrictlyDecrease : Prop :=
  ∀ (s t u v : State) (seed : Word), s.cfg.source = .search seed → exec .pnext s = .next t → t.status.err = .none →
    u.cfg.source = .search seed → u.regs.pcur = t.regs.pcur → exec .pnext u = .next v → v.status.err = .none →
    v.regs.res0.toNat < t.regs.res0.toNat

/-- R224: in TABLE mode the results are table entries, so primes, and cycle with period PTABLE_LEN. -/
def Obligations.TableResultsCycle : Prop :=
  ∀ (s : State) (entries : List Word) (k : Nat), s.cfg.wellFormed = true → s.cfg.source = .table entries →
    s.regs.pcur.toNat < entries.length →
    ∃ t, pnextTimes (k + 1) s = .next t ∧ entries[(s.regs.pcur.toNat + k) % entries.length]? = some t.regs.res0 ∧
      t.regs.pcur.toNat = (s.regs.pcur.toNat + (k + 1)) % entries.length ∧ t.status.err = .none ∧
      t.regs.res0 ≠ 0 ∧ t.regs.res0.toNat.Prime

/-- R240: INVMOD. -/
def Obligations.InvmodWritesTheInverse : Prop :=
  decode 0x0000000000000006#64 = .command .invmod ∧
  ∀ s : State,
    (2 ≤ s.regs.opc.toNat → Nat.gcd (s.regs.opa.toNat % s.regs.opc.toNat) s.regs.opc.toNat = 1 →
      ∃ d, 1 ≤ d ∧ d ≤ s.regs.opc.toNat - 1 ∧ d * s.regs.opa.toNat % s.regs.opc.toNat = 1 ∧
        exec .invmod s = .next (succeeded s { s.regs with res0 := BitVec.ofNat 64 d } s.draws)) ∧
    (s.regs.opc.toNat < 2 ∨ Nat.gcd (s.regs.opa.toNat % s.regs.opc.toNat) s.regs.opc.toNat ≠ 1 →
      InvalidArgument s (exec .invmod s) (OnlyRes0 s) 0)

/-- R245, R246: KEYDERIVE. -/
def Obligations.KeyderiveWritesTheKeyMaterial : Prop :=
  decode 0x0000000000000007#64 = .command .keyderive ∧
  ∀ s : State,
    (KdAccepts s.regs.opa.toNat s.regs.opb.toNat →
      ∃ e d, KeyFacts s.regs.opa.toNat s.regs.opb.toNat e d ∧
        exec .keyderive s = .next (succeeded s
          { s.regs with
            keyN := BitVec.ofNat 64 (s.regs.opa.toNat * s.regs.opb.toNat)
            keyPhi := BitVec.ofNat 64 ((s.regs.opa.toNat - 1) * (s.regs.opb.toNat - 1))
            keyE := BitVec.ofNat 64 e
            keyD := BitVec.ofNat 64 d } s.draws)) ∧
    (¬KdAccepts s.regs.opa.toNat s.regs.opb.toNat → InvalidArgument s (exec .keyderive s) (OnlyKey s) 0)

/-- R255, R256: KEYGEN, from every cursor of SEARCH mode and every index of TABLE mode. -/
def Obligations.KeygenFollowsItsSequence : Prop :=
  decode 0x0000000000000008#64 = .command .keygen ∧
  ∀ s : State, IsIndex s.cfg.source s.regs.pcur.toNat → KeygenSequence s

/-- The model's choice (log 9): in TABLE mode from a cursor that is no index, which only an unconstrained command leaves (log 5), PNEXT and
KEYGEN run as from any other cursor, with a free value for the entry and the cursor advanced by R221's formula. GenerateFollowsItsSequence
says the same of GENERATE. -/
def Obligations.CursorOutsideTheTableTakesAFreeEntry : Prop :=
  ∀ (s : State) (entries : List Word), s.cfg.source = .table entries → entries.length ≤ s.regs.pcur.toNat →
    PnextSequence s ∧ KeygenSequence s

/-- KEYGEN completes, with the values R256 gives, for the primes the source holds at an index of TABLE mode or a cursor below 2^63. -/
def Obligations.KeygenCompletes : Prop :=
  ∀ (s : State) (p c1 q c2 : Nat),
    IsIndex s.cfg.source s.regs.pcur.toNat → (∀ seed, s.cfg.source = .search seed → s.regs.pcur.toNat < 2 ^ 63) →
    NextPrimeIs s.cfg.source s.regs.pcur.toNat p c1 → NextPrimeIs s.cfg.source c1 q c2 → KdAccepts p q →
    ∃ e d, KeyFacts p q e d ∧ exec .keygen s = .next (succeeded s (keyRegs s.regs p q c2 e d) s.draws)

/-- 45_key_deriver.md R257: the prime source never gives the same value twice in a row: in two PNEXT commands, in a KEYGEN or GENERATE that
committed its primes, and in the two draws of its sequence wherever it stands; so of the checks of KD only the width of p·q and
φ ≥ 3, for {2, 3}, can fail there. From an index of the table in TABLE mode; at any other cursor (log 5, log 9) nothing is known of
the first draw. -/
def Obligations.ConsecutiveDrawsAreDistinct : Prop :=
  (∀ s t u : State, s.cfg.wellFormed = true → IsIndex s.cfg.source s.regs.pcur.toNat →
    exec .pnext s = .next t → t.status.err = .none → exec .pnext t = .next u → u.status.err = .none →
    u.regs.res0 ≠ t.regs.res0) ∧
  (∀ (i : Instr) (s t : State), i = .keygen ∨ i = .generate → s.cfg.wellFormed = true → s.cfg.assertEn = true →
    IsIndex s.cfg.source s.regs.pcur.toNat → exec i s = .next t →
    t.status.err = .none ∨ t.status.err = .resource → t.regs.res0 ≠ t.regs.res1) ∧
  (∀ (c : Params) (cur d p c1 d1 q c2 d2 : Nat), c.wellFormed = true → IsIndex c.source cur →
    nextPrime c.source cur d = .found p c1 d1 → nextPrime c.source c1 d1 = .found q c2 d2 →
    p ≠ q ∧ (¬KdAccepts p q → 2 ^ 64 - 1 < p * q ∨ (p = 2 ∧ q = 3) ∨ (p = 3 ∧ q = 2)))

/-- R270: ENCBYTE. -/
def Obligations.EncbyteWritesTheUnit : Prop :=
  decode 0x0000000000000009#64 = .command .encbyte ∧
  ∀ s : State,
    (s.regs.keyN.toNat ≠ 0 → s.regs.keyE.toNat = 0 ∨ s.regs.keyN.toNat ≤ 2 ^ 63 - 1 →
      exec .encbyte s = .next (succeeded s
        { s.regs with
          res0 := BitVec.ofNat 64 (cipherUnit (s.regs.opa.toNat % 256) s.regs.keyE.toNat s.regs.keyN.toNat) } s.draws)) ∧
    (s.regs.keyE.toNat ≠ 0 → 2 ^ 63 ≤ s.regs.keyN.toNat →
      ∃ v d, exec .encbyte s = .next (succeeded s { s.regs with res0 := v } d)) ∧
    (s.regs.keyN.toNat = 0 → InvalidArgument s (exec .encbyte s) (OnlyRes0 s) 0)

/-- R275, R276, R277: ENCBUF; the bytes stored are those of CT[0 … MSG_LEN−1], at 0x80000 + 8i. -/
def Obligations.EncbufWritesTheUnits : Prop :=
  decode 0x000000000000000A#64 = .command .encbuf ∧
  ∀ s : State, s.cfg.bufCap ≤ 65536 →
    (s.cfg.bufCap < s.regs.msgLen.toNat →
      ∃ events, exec .encbuf s = .next { failed s .resource s.draws with dbg := s.dbg + events }) ∧
    (1 ≤ s.regs.msgLen.toNat → s.regs.msgLen.toNat ≤ s.cfg.bufCap → s.regs.keyN.toNat = 0 →
      InvalidArgument s (exec .encbuf s) (fun r => r = s.regs) s.regs.msgLen.toNat) ∧
    (s.regs.msgLen.toNat ≤ s.cfg.bufCap → s.regs.msgLen.toNat = 0 ∨ s.regs.keyN.toNat ≠ 0 →
      ∃ m d, exec .encbuf s = .next { succeeded s s.regs d with mem := m } ∧
        (∀ a, ¬(0x80000 ≤ a ∧ a < 0x80000 + 8 * s.regs.msgLen.toNat) →
          State.readByte { succeeded s s.regs d with mem := m } a = s.readByte a) ∧
        (s.regs.keyE.toNat = 0 ∨ s.regs.keyN.toNat ≤ 2 ^ 63 - 1 →
          d = s.draws ∧
          ∀ i < s.regs.msgLen.toNat,
            State.ctUnit { succeeded s s.regs d with mem := m } i =
              BitVec.ofNat 64 (cipherUnit (s.msgByte i).toNat s.regs.keyE.toNat s.regs.keyN.toNat)))

/-- R278: equal bytes under one key give equal units, in the two cases in which the units are exact (R277): KEY_E = 0, and KEY_N in range;
and in the ciphertext of GENERATE, whose exponent is never 0. -/
def Obligations.EqualBytesGiveEqualUnits : Prop :=
  (∀ (s t : State) (i j : Nat), s.cfg.bufCap ≤ 65536 → s.regs.msgLen.toNat ≤ s.cfg.bufCap →
    (s.regs.keyE.toNat = 0 ∧ s.regs.keyN.toNat ≠ 0) ∨ (1 ≤ s.regs.keyN.toNat ∧ s.regs.keyN.toNat ≤ 2 ^ 63 - 1) →
    i < s.regs.msgLen.toNat → j < s.regs.msgLen.toNat → s.msgByte i = s.msgByte j → exec .encbuf s = .next t →
    t.ctUnit i = t.ctUnit j) ∧
  (∀ (s t : State) (p c1 d1 q c2 d2 i j : Nat), s.cfg.bufCap ≤ 65536 → s.regs.msgLen.toNat ≤ s.cfg.bufCap →
    nextPrime s.cfg.source s.regs.pcur.toNat s.draws = .found p c1 d1 → nextPrime s.cfg.source c1 d1 = .found q c2 d2 →
    KdAccepts p q → p * q ≤ 2 ^ 63 - 1 →
    i < s.regs.msgLen.toNat → j < s.regs.msgLen.toNat → s.msgByte i = s.msgByte j → exec .generate s = .next t →
    t.ctUnit i = t.ctUnit j)

/-- R280, R281: GENERATE, from every cursor (a TABLE-mode cursor that is no index is log 9): the errors of its key phase,
the committed key on RESOURCE, and the ciphertext. -/
def Obligations.GenerateFollowsItsSequence : Prop :=
  decode 0x000000000000000B#64 = .command .generate ∧
  ∀ s : State, s.cfg.bufCap ≤ 65536 →
    (s.regs.msgLen.toNat = 0 → InvalidArgument s (exec .generate s) (OnlyKeyPhase s) 0) ∧
    (s.regs.msgLen.toNat ≠ 0 → Exhausted s.cfg.source s.regs.pcur.toNat →
      exec .generate s = .next (failed s .exhausted s.draws)) ∧
    (s.regs.msgLen.toNat ≠ 0 → ¬Exhausted s.cfg.source s.regs.pcur.toNat →
      ∃ p c1, NextPrimeIs s.cfg.source s.regs.pcur.toNat p c1 ∧
        (Exhausted s.cfg.source c1 → ∃ d, exec .generate s = .next (failed s .exhausted d)) ∧
        (¬Exhausted s.cfg.source c1 →
          ∃ q c2, NextPrimeIs s.cfg.source c1 q c2 ∧
            (¬KdAccepts p q →
              InvalidArgument s (exec .generate s) (OnlyKeyPhase s) (min s.regs.msgLen.toNat s.cfg.bufCap)) ∧
            (KdAccepts p q →
              ∃ e d draws, KeyFacts p q e d ∧
                (s.cfg.bufCap < s.regs.msgLen.toNat →
                  ∃ events, exec .generate s = .next
                    { failed s .resource draws with regs := keyRegs s.regs p q c2 e d, dbg := s.dbg + events }) ∧
                (s.regs.msgLen.toNat ≤ s.cfg.bufCap →
                  ∃ m, exec .generate s = .next { succeeded s (keyRegs s.regs p q c2 e d) draws with mem := m } ∧
                    (∀ a, ¬(0x80000 ≤ a ∧ a < 0x80000 + 8 * s.regs.msgLen.toNat) →
                      State.readByte { succeeded s (keyRegs s.regs p q c2 e d) draws with mem := m } a = s.readByte a) ∧
                    (p * q ≤ 2 ^ 63 - 1 →
                      ∀ i < s.regs.msgLen.toNat,
                        State.ctUnit { succeeded s (keyRegs s.regs p q c2 e d) draws with mem := m } i =
                          BitVec.ofNat 64 (cipherUnit (s.msgByte i).toNat e (p * q)))))))

/-- GENERATE completes, with the values R281 gives, for the primes the source holds at an index of TABLE mode or a cursor below 2^63
and a message that fits. -/
def Obligations.GenerateCompletes : Prop :=
  ∀ (s : State) (p c1 q c2 : Nat),
    IsIndex s.cfg.source s.regs.pcur.toNat → (∀ seed, s.cfg.source = .search seed → s.regs.pcur.toNat < 2 ^ 63) →
    s.cfg.bufCap ≤ 65536 →
    1 ≤ s.regs.msgLen.toNat → s.regs.msgLen.toNat ≤ s.cfg.bufCap →
    NextPrimeIs s.cfg.source s.regs.pcur.toNat p c1 → NextPrimeIs s.cfg.source c1 q c2 → KdAccepts p q →
    ∃ t e d, exec .generate s = .next t ∧ KeyFacts p q e d ∧ t.regs = keyRegs s.regs p q c2 e d ∧ t.phase = .idle ∧
      t.status = { s.status with done := true, err := .none } ∧
      (p * q ≤ 2 ^ 63 - 1 → ∀ i < s.regs.msgLen.toNat,
        t.ctUnit i = BitVec.ofNat 64 (cipherUnit (s.msgByte i).toNat e (p * q)))

/-- R283: a RESOURCE error of GENERATE keeps the committed key, writes no CT word, and sets ERR to 2; any other error writes nothing. -/
def Obligations.GenerateKeepsTheKeyOnResource : Prop :=
  ∀ s t : State, exec .generate s = .next t → t.isBusy = false →
    (t.status.err = .resource →
      s.cfg.bufCap < s.regs.msgLen.toNat ∧ t.mem = s.mem ∧ t.phase = .idle ∧ t.status.err.bits = 2 ∧
      ∃ u, exec .keygen s = .next u ∧ u.status.err = .none ∧ t.regs = u.regs) ∧
    (t.status.err ≠ .resource → t.status.err ≠ .none → t.regs = s.regs ∧ t.mem = s.mem)
end

