-- ==== Sys2Proof/Laws/Arith.lean ====
section
/-! SUPPORT. One specification lemma for each loop of the datapaths. -/

namespace Sys2Proof.Machine

/-! ### GCD -/

theorem euclid_eq_gcd {fuel a b : Nat} (h : b ≤ fuel) : euclid fuel a b = Nat.gcd a b := by
  induction fuel generalizing a b with
  | zero => obtain rfl : b = 0 := by omega
            simp [euclid]
  | succ fuel ih =>
    rw [euclid]
    split
    · subst_vars; simp
    · rename_i hb
      have := Nat.mod_lt a (Nat.pos_of_ne_zero hb)
      rw [ih (by omega), Nat.gcd_comm b, ← Nat.gcd_rec, Nat.gcd_comm]

/-- The GCD datapath computes the greatest common divisor (R161). -/
theorem gcdUnit_eq_gcd (a b : Nat) : gcdUnit a b = Nat.gcd a b := euclid_eq_gcd (Nat.le_refl b)

/-! ### Modular exponentiation -/

theorem powLoop_eq {m fuel r y e : Nat} (hr : r % m = r) (he : e < 2 ^ fuel) :
    powLoop m fuel r y e = r * y ^ e % m := by
  induction fuel generalizing r y e with
  | zero =>
    obtain rfl : e = 0 := by simpa using he
    simp [powLoop, hr]
  | succ fuel ih =>
    rw [powLoop]
    split
    · subst_vars; simp [hr]
    · have hsplit : y ^ e = y ^ (e % 2) * (y * y) ^ (e / 2) := by
        rw [← pow_two, ← pow_mul, ← pow_add, Nat.mod_add_div]
      have hrr : (if e % 2 = 1 then mulModExact r y m else r) = r * y ^ (e % 2) % m := by
        rcases Nat.mod_two_eq_zero_or_one e with h0 | h1
        · simp [h0, hr]
        · simp [h1, mulModExact]
      rw [ih, hrr, hsplit, mulModExact]
      · rw [← Nat.mul_assoc, Nat.mul_mod (r * y ^ (e % 2) % m), Nat.pow_mod (y * y % m), Nat.mod_mod, Nat.mod_mod,
          ← Nat.pow_mod, ← Nat.mul_mod]
      · rw [hrr, Nat.mod_mod]
      · rw [Nat.pow_succ] at he; omega

/-- PM in range is the power (R182, R186). -/
theorem powModExact_eq {x e m : Nat} (h0 : e ≠ 0) (he : e < 2 ^ 64) : powModExact x e m = x ^ e % m := by
  rw [powModExact, if_neg h0, powLoop_eq (Nat.mod_mod _ _) he, Nat.mul_mod, Nat.mod_mod, ← Nat.pow_mod, ← Nat.mul_mod,
    Nat.one_mul]

/-- PM takes no free value when the exponent is 0 or the modulus is in range (R134). -/
theorem powModUnit_draws {e n : Word} (h : e.toNat = 0 ∨ inRange n.toNat) (x : Word) (d : Nat) :
    (powModUnit x e n d).2 = d := by
  unfold powModUnit
  split
  · rfl
  · rw [if_pos (by tauto)]

/-! ### Miller–Rabin -/

/-- The decomposition loop: n = 2^s · t with t odd (R201). -/
theorem oddPart_spec {fuel t s : Nat} (h0 : 0 < t) (hlt : t < 2 ^ fuel) :
    (oddPart fuel t s).1 % 2 = 1 ∧ s ≤ (oddPart fuel t s).2 ∧
      2 ^ ((oddPart fuel t s).2 - s) * (oddPart fuel t s).1 = t := by
  induction fuel generalizing t s with
  | zero => exfalso; simp at hlt; omega
  | succ fuel ih =>
    rw [oddPart]
    split
    · rename_i he
      obtain ⟨h1, h2, h3⟩ := ih (t := t / 2) (s := s + 1) (by omega) (by rw [Nat.pow_succ] at hlt; omega)
      refine ⟨h1, by omega, ?_⟩
      obtain ⟨k, hk⟩ : ∃ k, (oddPart fuel (t / 2) (s + 1)).2 = s + 1 + k := ⟨_, (Nat.add_sub_of_le h2).symm⟩
      rw [hk] at h3 ⊢
      rw [show s + 1 + k - s = (s + 1 + k - (s + 1)) + 1 by omega, Nat.pow_succ, Nat.mul_right_comm, h3]
      omega
    · rename_i ho
      exact ⟨by simpa using ho, Nat.le_refl s, by simp⟩

/-- The squaring loop: some square in at most k squarings is n − 1 (R201). -/
theorem squaringPasses_iff (n k b : Nat) :
    squaringPasses n k b = true ↔ ∃ r, 1 ≤ r ∧ r ≤ k ∧ b ^ 2 ^ r % n = n - 1 := by
  induction k generalizing b with
  | zero =>
    simp only [squaringPasses, Bool.false_eq_true, false_iff]
    rintro ⟨r, h1, h2, -⟩
    omega
  | succ k ih =>
    have hsq : ∀ r, mulModExact b b n ^ 2 ^ r % n = b ^ 2 ^ (r + 1) % n := by
      intro r
      rw [mulModExact, ← Nat.pow_mod, ← pow_two, ← pow_mul, pow_succ' 2 r]
    rw [squaringPasses, Bool.or_eq_true, beq_iff_eq, ih]
    constructor
    · rintro (h | ⟨r, h1, h2, h3⟩)
      · exact ⟨1, by omega, by omega, by rw [pow_one, pow_two, ← h, mulModExact]⟩
      · exact ⟨r + 1, by omega, by omega, by rw [← hsq, h3]⟩
    · rintro ⟨r, h1, h2, h3⟩
      obtain ⟨r, rfl⟩ : ∃ q, r = q + 1 := ⟨r - 1, by omega⟩
      rcases Nat.eq_zero_or_pos r with rfl | hr
      · left; rw [mulModExact, ← h3, Nat.zero_add, pow_one, pow_two]
      · exact .inr ⟨r, by omega, by omega, by rw [hsq, h3]⟩

/-- One witness: skipped, or a^t is 1, or some a^(2^r · t) with r < s is n − 1 (R201, R202). -/
theorem witnessPasses_iff {n t s a : Nat} (ht : t ≠ 0) (htl : t < 2 ^ 64) (hs : 1 ≤ s) :
    witnessPasses n t s a = true ↔ n ≤ a ∨ a ^ t % n = 1 ∨ ∃ r < s, a ^ (2 ^ r * t) % n = n - 1 := by
  have hp : ∀ r, (a ^ t % n) ^ 2 ^ r % n = a ^ (2 ^ r * t) % n := by
    intro r; rw [← Nat.pow_mod, ← pow_mul, Nat.mul_comm]
  simp only [witnessPasses, Bool.or_eq_true, decide_eq_true_eq, beq_iff_eq, squaringPasses_iff, powModExact_eq ht htl, hp]
  constructor
  · rintro (((h | h) | h) | ⟨r, h1, h2, h3⟩)
    · exact .inl h
    · exact .inr (.inl h)
    · exact .inr (.inr ⟨0, by omega, by rw [pow_zero, Nat.one_mul, h]⟩)
    · exact .inr (.inr ⟨r, by omega, h3⟩)
  · rintro (h | h | ⟨r, h1, h2⟩)
    · exact .inl (.inl (.inl h))
    · exact .inl (.inl (.inr h))
    · rcases Nat.eq_zero_or_pos r with rfl | hr
      · exact .inl (.inr (by rw [← h2, pow_zero, Nat.one_mul]))
      · exact .inr ⟨r, by omega, by omega, h2⟩

/-! ### The search and the exponent scan -/

/-- The exponent scan answers the least exponent not below its start that is coprime to phi, when there is one within its fuel. -/
theorem exponentScan_spec {phi fuel e k : Nat} (hk : k < fuel) (hc : Nat.gcd (e + k) phi = 1) :
    e ≤ exponentScan phi fuel e ∧ exponentScan phi fuel e ≤ e + k ∧ Nat.gcd (exponentScan phi fuel e) phi = 1 ∧
      ∀ x, e ≤ x → x < exponentScan phi fuel e → Nat.gcd x phi ≠ 1 := by
  induction fuel generalizing e k with
  | zero => omega
  | succ fuel ih =>
    rw [exponentScan, gcdUnit_eq_gcd]
    split
    · rename_i h; exact ⟨Nat.le_refl e, by omega, h, fun x h1 h2 => by omega⟩
    · rename_i h
      rcases Nat.eq_zero_or_pos k with rfl | hpos
      · exact absurd hc h
      · obtain ⟨h1, h2, h3, h4⟩ := ih (e := e + 1) (k := k - 1) (by omega) (by rw [show e + 1 + (k - 1) = e + k by omega]; exact hc)
        refine ⟨by omega, by omega, h3, fun x hx hlt => ?_⟩
        rcases Nat.eq_or_lt_of_le hx with rfl | hx
        · exact h
        · exact h4 x hx hlt

/-- For a candidate below 2^63 the verdict takes no free value (R134). -/
theorem verdict_draws {n : Nat} (h : n < 2 ^ 63) (d : Nat) : verdict n d = ((verdict n 0).1, d) := by
  unfold verdict
  split
  · rfl
  · split
    · rfl
    · rw [if_neg (by omega), if_neg (by omega)]

/-- What a search that finds something found (R222). -/
theorem searchDown_found {c d p c1 d1 : Nat} (h : searchDown c d = .found p c1 d1) : 2 ≤ p ∧ p ≤ c ∧ c1 = p - 1 := by
  induction c generalizing d with
  | zero => simp [searchDown] at h
  | succ c ih =>
    rw [searchDown] at h
    split at h
    · simp at h
    · split at h
      · simp only [NextPrime.found.injEq] at h; omega
      · have := ih h; omega

/-- A search from 2 or more finds something: 2 itself has the verdict 1 (R201, R222). -/
theorem searchDown_not_exhausted {c : Nat} (h : 2 ≤ c) (d d1 : Nat) : searchDown c d ≠ .exhausted d1 := by
  induction c generalizing d with
  | zero => omega
  | succ c ih =>
    rw [searchDown, if_neg (by omega)]
    split
    · simp
    · rename_i hv
      refine ih ?_ _
      by_contra hlt
      obtain rfl : c = 1 := by omega
      exact hv (by simp [verdict])

/-- A search from 3 or more finds 3 or more: 3 has the verdict 1 (R201, R222). -/
theorem searchDown_found_three {c d p c1 d1 : Nat} (hc : 3 ≤ c) (h : searchDown c d = .found p c1 d1) : 3 ≤ p := by
  induction c generalizing d with
  | zero => omega
  | succ c ih =>
    rw [searchDown, if_neg (by omega)] at h
    split at h
    · simp only [NextPrime.found.injEq] at h; omega
    · rename_i hv
      rcases Nat.eq_or_lt_of_le hc with h3 | h3
      · obtain rfl : c = 2 := by omega
        exact absurd (show (verdict 3 d).1 = true by rw [verdict_draws (by decide)]; exact (by decide : (verdict 3 0).1 = true)) hv
      · exact ih (by omega) h

/-- NEXTPRIME in SEARCH mode is exhausted exactly below 2, whatever command ran before: the cursor alone decides (R222, R134). -/
theorem nextPrime_exhausted_iff (seed : Word) (c d : Nat) :
    (∃ d1, nextPrime (.search seed) c d = .exhausted d1) ↔ c < 2 := by
  constructor
  · rintro ⟨d1, h⟩
    by_contra hc
    exact searchDown_not_exhausted (by omega) d d1 h
  · intro h
    interval_cases c <;> exact ⟨d, rfl⟩

/-- The sequence of KEYGEN and GENERATE in SEARCH mode is exhausted exactly from a cursor of at most 2 (R256, R306). -/
theorem keyPhase_exhausted_iff (seed : Word) (c d : Nat) :
    (∃ d1, keyPhase (.search seed) c d = .exhausted d1) ↔ c ≤ 2 := by
  constructor
  · rintro ⟨d1, h⟩
    unfold keyPhase at h
    split at h
    · rename_i h1
      exact Nat.le_of_lt ((nextPrime_exhausted_iff seed c d).1 ⟨_, h1⟩)
    · rename_i p c1 d2 h1
      obtain ⟨-, hp, hc1⟩ := searchDown_found h1
      split at h
      · rename_i h2
        have hlt := (nextPrime_exhausted_iff seed c1 d2).1 ⟨_, h2⟩
        by_contra hc
        have := searchDown_found_three (by omega) h1
        omega
      · split at h <;> simp at h
  · intro h
    interval_cases c
    · exact ⟨d, rfl⟩
    · exact ⟨d, rfl⟩
    · exact ⟨d, by simp [keyPhase, nextPrime, searchDown, verdict]⟩

/-! ### The inverse -/

/-- The loop of R241 keeps t0·a ≡ r0 and t1·a ≡ r1 (mod m), and ends with r0 = gcd. -/
theorem inverseLoop_spec {a m : Int} {fuel r0 r1 : Nat} {t0 t1 : Int} (hf : r1 ≤ fuel)
    (h0 : m ∣ t0 * a - r0) (h1 : m ∣ t1 * a - r1) :
    m ∣ inverseLoop fuel r0 r1 t0 t1 * a - (Nat.gcd r0 r1 : Int) := by
  induction fuel generalizing r0 r1 t0 t1 with
  | zero =>
    obtain rfl : r1 = 0 := by omega
    simpa [inverseLoop] using h0
  | succ fuel ih =>
    rw [inverseLoop]
    split
    · subst_vars; simpa using h0
    · rename_i hne
      have hlt := Nat.mod_lt r0 (Nat.pos_of_ne_zero hne)
      have hg : Nat.gcd r0 r1 = Nat.gcd r1 (r0 % r1) := by
        rw [Nat.gcd_comm r1, ← Nat.gcd_rec, Nat.gcd_comm]
      rw [hg]
      refine ih (by omega) h1 ?_
      have hdm : (r0 : Int) = (r1 : Int) * (r0 / r1 : Nat) + (r0 % r1 : Nat) := by
        exact_mod_cast (Nat.div_add_mod r0 r1).symm
      have : (t0 - (r0 / r1 : Nat) * t1) * a - ((r0 % r1 : Nat) : Int)
          = (t0 * a - r0) - (r0 / r1 : Nat) * (t1 * a - r1) := by
        linear_combination hdm
      rw [this]
      exact Int.dvd_sub h0 (Dvd.dvd.mul_left h1 _)

/-- The coefficients of R241 alternate in sign, do not shrink, and |t0|·r1 + |t1|·r0 stays the modulus, so |t0| ≤ m at the end. -/
theorem inverseLoop_bound {m : Nat} {fuel r0 r1 : Nat} {t0 t1 : Int} (hf : r1 ≤ fuel) (hr : r1 < r0)
    (hle : t0.natAbs ≤ t1.natAbs) (hsign : t0 * t1 ≤ 0) (hm : t0.natAbs * r1 + t1.natAbs * r0 = m) :
    (inverseLoop fuel r0 r1 t0 t1).natAbs ≤ m := by
  have hbound : t0.natAbs ≤ m := by
    calc t0.natAbs ≤ t1.natAbs := hle
      _ ≤ t1.natAbs * r0 := Nat.le_mul_of_pos_right _ (by omega)
      _ ≤ m := by omega
  induction fuel generalizing r0 r1 t0 t1 with
  | zero => simpa [inverseLoop] using hbound
  | succ fuel ih =>
    rw [inverseLoop]
    split
    · exact hbound
    · rename_i hne
      have hpos := Nat.pos_of_ne_zero hne
      have hlt := Nat.mod_lt r0 hpos
      have hq : 1 ≤ r0 / r1 := (Nat.one_le_div_iff hpos).mpr (Nat.le_of_lt hr)
      have habs : ∀ q : Nat, (t0 - (q : Int) * t1).natAbs = t0.natAbs + q * t1.natAbs := by
        intro q
        have hqi : (0 : Int) ≤ (q : Int) := Int.natCast_nonneg _
        zify
        rcases lt_trichotomy t1 0 with h | h | h
        · have h0 : 0 ≤ t0 := by nlinarith
          have hp := mul_nonneg hqi (neg_nonneg.mpr h.le)
          rw [abs_of_nonneg h0, abs_of_neg h, abs_of_nonneg (by linarith)]
          ring
        · simp [h]
        · have h0 : t0 ≤ 0 := by nlinarith
          have hp := mul_nonneg hqi h.le
          rw [abs_of_nonpos h0, abs_of_pos h, abs_of_nonpos (by linarith)]
          ring
      have hsum : t1.natAbs * (r0 % r1) + (t0 - ((r0 / r1 : Nat) : Int) * t1).natAbs * r1 = m := by
        have hd := Nat.div_add_mod r0 r1
        rw [habs, ← hm]
        calc t1.natAbs * (r0 % r1) + (t0.natAbs + r0 / r1 * t1.natAbs) * r1
            = t0.natAbs * r1 + t1.natAbs * (r1 * (r0 / r1) + r0 % r1) := by ring
          _ = _ := by rw [hd]
      have hle' : t1.natAbs ≤ (t0 - ((r0 / r1 : Nat) : Int) * t1).natAbs := by
        rw [habs]
        calc t1.natAbs = 1 * t1.natAbs := (Nat.one_mul _).symm
          _ ≤ r0 / r1 * t1.natAbs := Nat.mul_le_mul_right _ hq
          _ ≤ _ := Nat.le_add_left _ _
      have hsign' : t1 * (t0 - ((r0 / r1 : Nat) : Int) * t1) ≤ 0 := by
        have hqi : (0 : Int) ≤ ((r0 / r1 : Nat) : Int) := Int.natCast_nonneg _
        nlinarith [mul_nonneg hqi (mul_self_nonneg t1)]
      refine ih (by omega) hlt hle' hsign' hsum ?_
      calc t1.natAbs ≤ t1.natAbs * r0 := Nat.le_mul_of_pos_right _ (by omega)
        _ ≤ m := by omega

/-- INV answers the one d in [1, m − 1] with d·a ≡ 1 (mod m) (R240, R241). -/
theorem inverseUnit_spec {a m : Nat} (hm : 2 ≤ m) (hc : Nat.gcd (a % m) m = 1) :
    1 ≤ inverseUnit a m ∧ inverseUnit a m ≤ m - 1 ∧ inverseUnit a m * a % m = 1 := by
  set t := inverseLoop m m (a % m) 0 1 with ht
  have hlt := Nat.mod_lt a (show 0 < m by omega)
  have hb : t.natAbs ≤ m :=
    inverseLoop_bound (by omega) hlt (by simp) (by simp) (by simp)
  have hdvd : (m : Int) ∣ t * ((a : Nat) : Int) - 1 := by
    have := inverseLoop_spec (a := (a : Int)) (m := (m : Int)) (fuel := m) (r0 := m) (r1 := a % m) (t0 := 0) (t1 := 1)
      (by omega) (by simp) (by
        rw [Int.one_mul]
        exact ⟨(a / m : Nat), by
          have hdm : (m : Int) * (a / m : Nat) + (a % m : Nat) = a := by exact_mod_cast Nat.div_add_mod a m
          linarith⟩)
    rwa [Nat.gcd_comm, hc] at this
  have hnot : ¬ (m : Int) ∣ t := by
    intro h
    have h1 : (m : Int) ∣ 1 := by
      have := Int.dvd_sub (Dvd.dvd.mul_right h (a : Int)) hdvd
      simpa using this
    have := Int.le_of_dvd (by norm_num) h1
    omega
  have hd : inverseUnit a m = (if t < 0 then t + m else t).toNat := rfl
  set u : Int := if t < 0 then t + m else t with hu
  have hu0 : 0 < u ∧ u < m := by
    have hne0 : t ≠ 0 := fun h => hnot (h ▸ dvd_zero _)
    have hnem : t ≠ m := fun h => hnot (h ▸ dvd_refl _)
    have hnen : t ≠ -m := fun h => hnot (by rw [h]; exact (dvd_refl (m : Int)).neg_right)
    rw [hu]; split <;> omega
  have hudvd : (m : Int) ∣ u * (a : Int) - 1 := by
    rw [hu]; split
    · have : (t + m) * (a : Int) - 1 = (t * a - 1) + m * a := by ring
      rw [this]; exact Int.dvd_add hdvd (Dvd.intro _ rfl)
    · exact hdvd
  obtain ⟨d, hdu⟩ : ∃ d : Nat, u = d := ⟨u.toNat, by omega⟩
  rw [hd, hdu, Int.toNat_natCast]
  refine ⟨by omega, by omega, ?_⟩
  have hmod : (d * a : Int) % m = 1 := by
    rw [hdu] at hudvd
    have h1 : (d * a : Int) % m = 1 % m := (Int.modEq_iff_dvd.mpr hudvd).symm
    rw [h1]; exact Int.emod_eq_of_lt (by norm_num) (by omega)
  exact_mod_cast hmod

end Sys2Proof.Machine
end

