-- ==== Sys2Proof/Laws/State.lean ====
section
/-! SUPPORT. One lemma per field per named update of the state: what the update puts there, or that it leaves it. -/

namespace Sys2Proof.Machine.State

variable (s : State)

@[simp] theorem setPhase_cfg (p : Phase) : (s.setPhase p).cfg = s.cfg := rfl
@[simp] theorem setPhase_phase (p : Phase) : (s.setPhase p).phase = p := rfl
@[simp] theorem setPhase_status (p : Phase) : (s.setPhase p).status = s.status := rfl
@[simp] theorem setPhase_irqEn (p : Phase) : (s.setPhase p).irqEn = s.irqEn := rfl
@[simp] theorem setPhase_regs (p : Phase) : (s.setPhase p).regs = s.regs := rfl
@[simp] theorem setPhase_mem (p : Phase) : (s.setPhase p).mem = s.mem := rfl
@[simp] theorem setPhase_port (p : Phase) : (s.setPhase p).port = s.port := rfl
@[simp] theorem setPhase_dbg (p : Phase) : (s.setPhase p).dbg = s.dbg := rfl
@[simp] theorem setPhase_inputs (p : Phase) : (s.setPhase p).inputs = s.inputs := rfl
@[simp] theorem setPhase_draws (p : Phase) : (s.setPhase p).draws = s.draws := rfl
@[simp] theorem setPhase_epoch (p : Phase) : (s.setPhase p).epoch = s.epoch := rfl

@[simp] theorem setStatus_cfg (st : Status) : (s.setStatus st).cfg = s.cfg := rfl
@[simp] theorem setStatus_phase (st : Status) : (s.setStatus st).phase = s.phase := rfl
@[simp] theorem setStatus_status (st : Status) : (s.setStatus st).status = st := rfl
@[simp] theorem setStatus_irqEn (st : Status) : (s.setStatus st).irqEn = s.irqEn := rfl
@[simp] theorem setStatus_regs (st : Status) : (s.setStatus st).regs = s.regs := rfl
@[simp] theorem setStatus_mem (st : Status) : (s.setStatus st).mem = s.mem := rfl
@[simp] theorem setStatus_port (st : Status) : (s.setStatus st).port = s.port := rfl
@[simp] theorem setStatus_dbg (st : Status) : (s.setStatus st).dbg = s.dbg := rfl
@[simp] theorem setStatus_inputs (st : Status) : (s.setStatus st).inputs = s.inputs := rfl
@[simp] theorem setStatus_draws (st : Status) : (s.setStatus st).draws = s.draws := rfl
@[simp] theorem setStatus_epoch (st : Status) : (s.setStatus st).epoch = s.epoch := rfl

@[simp] theorem setIrqEn_cfg (e : IrqEnable) : (s.setIrqEn e).cfg = s.cfg := rfl
@[simp] theorem setIrqEn_phase (e : IrqEnable) : (s.setIrqEn e).phase = s.phase := rfl
@[simp] theorem setIrqEn_status (e : IrqEnable) : (s.setIrqEn e).status = s.status := rfl
@[simp] theorem setIrqEn_irqEn (e : IrqEnable) : (s.setIrqEn e).irqEn = e := rfl
@[simp] theorem setIrqEn_regs (e : IrqEnable) : (s.setIrqEn e).regs = s.regs := rfl
@[simp] theorem setIrqEn_mem (e : IrqEnable) : (s.setIrqEn e).mem = s.mem := rfl
@[simp] theorem setIrqEn_port (e : IrqEnable) : (s.setIrqEn e).port = s.port := rfl
@[simp] theorem setIrqEn_dbg (e : IrqEnable) : (s.setIrqEn e).dbg = s.dbg := rfl
@[simp] theorem setIrqEn_inputs (e : IrqEnable) : (s.setIrqEn e).inputs = s.inputs := rfl
@[simp] theorem setIrqEn_draws (e : IrqEnable) : (s.setIrqEn e).draws = s.draws := rfl
@[simp] theorem setIrqEn_epoch (e : IrqEnable) : (s.setIrqEn e).epoch = s.epoch := rfl

@[simp] theorem setRegs_cfg (r : Regs) : (s.setRegs r).cfg = s.cfg := rfl
@[simp] theorem setRegs_phase (r : Regs) : (s.setRegs r).phase = s.phase := rfl
@[simp] theorem setRegs_status (r : Regs) : (s.setRegs r).status = s.status := rfl
@[simp] theorem setRegs_irqEn (r : Regs) : (s.setRegs r).irqEn = s.irqEn := rfl
@[simp] theorem setRegs_regs (r : Regs) : (s.setRegs r).regs = r := rfl
@[simp] theorem setRegs_mem (r : Regs) : (s.setRegs r).mem = s.mem := rfl
@[simp] theorem setRegs_port (r : Regs) : (s.setRegs r).port = s.port := rfl
@[simp] theorem setRegs_dbg (r : Regs) : (s.setRegs r).dbg = s.dbg := rfl
@[simp] theorem setRegs_inputs (r : Regs) : (s.setRegs r).inputs = s.inputs := rfl
@[simp] theorem setRegs_draws (r : Regs) : (s.setRegs r).draws = s.draws := rfl
@[simp] theorem setRegs_epoch (r : Regs) : (s.setRegs r).epoch = s.epoch := rfl

@[simp] theorem setMem_cfg (m : Memory) : (s.setMem m).cfg = s.cfg := rfl
@[simp] theorem setMem_phase (m : Memory) : (s.setMem m).phase = s.phase := rfl
@[simp] theorem setMem_status (m : Memory) : (s.setMem m).status = s.status := rfl
@[simp] theorem setMem_irqEn (m : Memory) : (s.setMem m).irqEn = s.irqEn := rfl
@[simp] theorem setMem_regs (m : Memory) : (s.setMem m).regs = s.regs := rfl
@[simp] theorem setMem_mem (m : Memory) : (s.setMem m).mem = m := rfl
@[simp] theorem setMem_port (m : Memory) : (s.setMem m).port = s.port := rfl
@[simp] theorem setMem_dbg (m : Memory) : (s.setMem m).dbg = s.dbg := rfl
@[simp] theorem setMem_inputs (m : Memory) : (s.setMem m).inputs = s.inputs := rfl
@[simp] theorem setMem_draws (m : Memory) : (s.setMem m).draws = s.draws := rfl
@[simp] theorem setMem_epoch (m : Memory) : (s.setMem m).epoch = s.epoch := rfl

@[simp] theorem setPort_cfg (r : BusResponse) : (s.setPort r).cfg = s.cfg := rfl
@[simp] theorem setPort_phase (r : BusResponse) : (s.setPort r).phase = s.phase := rfl
@[simp] theorem setPort_status (r : BusResponse) : (s.setPort r).status = s.status := rfl
@[simp] theorem setPort_irqEn (r : BusResponse) : (s.setPort r).irqEn = s.irqEn := rfl
@[simp] theorem setPort_regs (r : BusResponse) : (s.setPort r).regs = s.regs := rfl
@[simp] theorem setPort_mem (r : BusResponse) : (s.setPort r).mem = s.mem := rfl
@[simp] theorem setPort_port (r : BusResponse) : (s.setPort r).port = some r := rfl
@[simp] theorem setPort_dbg (r : BusResponse) : (s.setPort r).dbg = s.dbg := rfl
@[simp] theorem setPort_inputs (r : BusResponse) : (s.setPort r).inputs = s.inputs := rfl
@[simp] theorem setPort_draws (r : BusResponse) : (s.setPort r).draws = s.draws := rfl
@[simp] theorem setPort_epoch (r : BusResponse) : (s.setPort r).epoch = s.epoch := rfl

@[simp] theorem setDraws_cfg (d : Nat) : (s.setDraws d).cfg = s.cfg := rfl
@[simp] theorem setDraws_phase (d : Nat) : (s.setDraws d).phase = s.phase := rfl
@[simp] theorem setDraws_status (d : Nat) : (s.setDraws d).status = s.status := rfl
@[simp] theorem setDraws_irqEn (d : Nat) : (s.setDraws d).irqEn = s.irqEn := rfl
@[simp] theorem setDraws_regs (d : Nat) : (s.setDraws d).regs = s.regs := rfl
@[simp] theorem setDraws_mem (d : Nat) : (s.setDraws d).mem = s.mem := rfl
@[simp] theorem setDraws_port (d : Nat) : (s.setDraws d).port = s.port := rfl
@[simp] theorem setDraws_dbg (d : Nat) : (s.setDraws d).dbg = s.dbg := rfl
@[simp] theorem setDraws_inputs (d : Nat) : (s.setDraws d).inputs = s.inputs := rfl
@[simp] theorem setDraws_draws (d : Nat) : (s.setDraws d).draws = d := rfl
@[simp] theorem setDraws_epoch (d : Nat) : (s.setDraws d).epoch = s.epoch := rfl

@[simp] theorem setRes0_cfg (v : Word) : (s.setRes0 v).cfg = s.cfg := rfl
@[simp] theorem setRes0_phase (v : Word) : (s.setRes0 v).phase = s.phase := rfl
@[simp] theorem setRes0_status (v : Word) : (s.setRes0 v).status = s.status := rfl
@[simp] theorem setRes0_irqEn (v : Word) : (s.setRes0 v).irqEn = s.irqEn := rfl
@[simp] theorem setRes0_regs (v : Word) : (s.setRes0 v).regs = { s.regs with res0 := v } := rfl
@[simp] theorem setRes0_mem (v : Word) : (s.setRes0 v).mem = s.mem := rfl
@[simp] theorem setRes0_port (v : Word) : (s.setRes0 v).port = s.port := rfl
@[simp] theorem setRes0_dbg (v : Word) : (s.setRes0 v).dbg = s.dbg := rfl
@[simp] theorem setRes0_inputs (v : Word) : (s.setRes0 v).inputs = s.inputs := rfl
@[simp] theorem setRes0_draws (v : Word) : (s.setRes0 v).draws = s.draws := rfl
@[simp] theorem setRes0_epoch (v : Word) : (s.setRes0 v).epoch = s.epoch := rfl

@[simp] theorem setPrime_cfg (p c1 : Word) : (s.setPrime p c1).cfg = s.cfg := rfl
@[simp] theorem setPrime_phase (p c1 : Word) : (s.setPrime p c1).phase = s.phase := rfl
@[simp] theorem setPrime_status (p c1 : Word) : (s.setPrime p c1).status = s.status := rfl
@[simp] theorem setPrime_irqEn (p c1 : Word) : (s.setPrime p c1).irqEn = s.irqEn := rfl
@[simp] theorem setPrime_regs (p c1 : Word) : (s.setPrime p c1).regs = { s.regs with res0 := p, pcur := c1 } := rfl
@[simp] theorem setPrime_mem (p c1 : Word) : (s.setPrime p c1).mem = s.mem := rfl
@[simp] theorem setPrime_port (p c1 : Word) : (s.setPrime p c1).port = s.port := rfl
@[simp] theorem setPrime_dbg (p c1 : Word) : (s.setPrime p c1).dbg = s.dbg := rfl
@[simp] theorem setPrime_inputs (p c1 : Word) : (s.setPrime p c1).inputs = s.inputs := rfl
@[simp] theorem setPrime_draws (p c1 : Word) : (s.setPrime p c1).draws = s.draws := rfl
@[simp] theorem setPrime_epoch (p c1 : Word) : (s.setPrime p c1).epoch = s.epoch := rfl

@[simp] theorem setPrimes_cfg (p q c2 : Word) : (s.setPrimes p q c2).cfg = s.cfg := rfl
@[simp] theorem setPrimes_phase (p q c2 : Word) : (s.setPrimes p q c2).phase = s.phase := rfl
@[simp] theorem setPrimes_status (p q c2 : Word) : (s.setPrimes p q c2).status = s.status := rfl
@[simp] theorem setPrimes_irqEn (p q c2 : Word) : (s.setPrimes p q c2).irqEn = s.irqEn := rfl
@[simp] theorem setPrimes_regs (p q c2 : Word) : (s.setPrimes p q c2).regs = { s.regs with res0 := p, res1 := q, pcur := c2 } := rfl
@[simp] theorem setPrimes_mem (p q c2 : Word) : (s.setPrimes p q c2).mem = s.mem := rfl
@[simp] theorem setPrimes_port (p q c2 : Word) : (s.setPrimes p q c2).port = s.port := rfl
@[simp] theorem setPrimes_dbg (p q c2 : Word) : (s.setPrimes p q c2).dbg = s.dbg := rfl
@[simp] theorem setPrimes_inputs (p q c2 : Word) : (s.setPrimes p q c2).inputs = s.inputs := rfl
@[simp] theorem setPrimes_draws (p q c2 : Word) : (s.setPrimes p q c2).draws = s.draws := rfl
@[simp] theorem setPrimes_epoch (p q c2 : Word) : (s.setPrimes p q c2).epoch = s.epoch := rfl

@[simp] theorem setKey_cfg (k : KeyMaterial) : (s.setKey k).cfg = s.cfg := rfl
@[simp] theorem setKey_phase (k : KeyMaterial) : (s.setKey k).phase = s.phase := rfl
@[simp] theorem setKey_status (k : KeyMaterial) : (s.setKey k).status = s.status := rfl
@[simp] theorem setKey_irqEn (k : KeyMaterial) : (s.setKey k).irqEn = s.irqEn := rfl
@[simp] theorem setKey_regs (k : KeyMaterial) : (s.setKey k).regs = { s.regs with
    keyN := BitVec.ofNat 64 k.n, keyPhi := BitVec.ofNat 64 k.phi, keyE := BitVec.ofNat 64 k.e, keyD := BitVec.ofNat 64 k.d } := rfl
@[simp] theorem setKey_mem (k : KeyMaterial) : (s.setKey k).mem = s.mem := rfl
@[simp] theorem setKey_port (k : KeyMaterial) : (s.setKey k).port = s.port := rfl
@[simp] theorem setKey_dbg (k : KeyMaterial) : (s.setKey k).dbg = s.dbg := rfl
@[simp] theorem setKey_inputs (k : KeyMaterial) : (s.setKey k).inputs = s.inputs := rfl
@[simp] theorem setKey_draws (k : KeyMaterial) : (s.setKey k).draws = s.draws := rfl
@[simp] theorem setKey_epoch (k : KeyMaterial) : (s.setKey k).epoch = s.epoch := rfl

@[simp] theorem writeCt_cfg (i : Nat) (v : Word) : (s.writeCt i v).cfg = s.cfg := rfl
@[simp] theorem writeCt_phase (i : Nat) (v : Word) : (s.writeCt i v).phase = s.phase := rfl
@[simp] theorem writeCt_status (i : Nat) (v : Word) : (s.writeCt i v).status = s.status := rfl
@[simp] theorem writeCt_irqEn (i : Nat) (v : Word) : (s.writeCt i v).irqEn = s.irqEn := rfl
@[simp] theorem writeCt_regs (i : Nat) (v : Word) : (s.writeCt i v).regs = s.regs := rfl
@[simp] theorem writeCt_mem (i : Nat) (v : Word) : (s.writeCt i v).mem = s.mem.writeLE (ctBase + 8 * i) 8 v.toNat := rfl
@[simp] theorem writeCt_port (i : Nat) (v : Word) : (s.writeCt i v).port = s.port := rfl
@[simp] theorem writeCt_dbg (i : Nat) (v : Word) : (s.writeCt i v).dbg = s.dbg := rfl
@[simp] theorem writeCt_inputs (i : Nat) (v : Word) : (s.writeCt i v).inputs = s.inputs := rfl
@[simp] theorem writeCt_draws (i : Nat) (v : Word) : (s.writeCt i v).draws = s.draws := rfl
@[simp] theorem writeCt_epoch (i : Nat) (v : Word) : (s.writeCt i v).epoch = s.epoch := rfl

@[simp] theorem accept_cfg (w : Word) : (s.accept w).cfg = s.cfg := rfl
@[simp] theorem accept_phase (w : Word) : (s.accept w).phase = .busy (currentOf w) := rfl
@[simp] theorem accept_status (w : Word) : (s.accept w).status = { s.status with done := false, err := .none, lastOp := opField w } := rfl
@[simp] theorem accept_irqEn (w : Word) : (s.accept w).irqEn = s.irqEn := rfl
@[simp] theorem accept_regs (w : Word) : (s.accept w).regs = s.regs := rfl
@[simp] theorem accept_mem (w : Word) : (s.accept w).mem = s.mem := rfl
@[simp] theorem accept_port (w : Word) : (s.accept w).port = s.port := rfl
@[simp] theorem accept_dbg (w : Word) : (s.accept w).dbg = s.dbg := rfl
@[simp] theorem accept_inputs (w : Word) : (s.accept w).inputs = s.inputs := rfl
@[simp] theorem accept_draws (w : Word) : (s.accept w).draws = s.draws := rfl
@[simp] theorem accept_epoch (w : Word) : (s.accept w).epoch = s.epoch := rfl

@[simp] theorem finish_cfg (e : ErrCode) : (s.finish e).cfg = s.cfg := rfl
@[simp] theorem finish_phase (e : ErrCode) : (s.finish e).phase = .idle := rfl
@[simp] theorem finish_status (e : ErrCode) : (s.finish e).status = { s.status with done := true, err := e } := rfl
@[simp] theorem finish_irqEn (e : ErrCode) : (s.finish e).irqEn = s.irqEn := rfl
@[simp] theorem finish_regs (e : ErrCode) : (s.finish e).regs = s.regs := rfl
@[simp] theorem finish_mem (e : ErrCode) : (s.finish e).mem = s.mem := rfl
@[simp] theorem finish_port (e : ErrCode) : (s.finish e).port = s.port := rfl
@[simp] theorem finish_dbg (e : ErrCode) : (s.finish e).dbg = s.dbg := rfl
@[simp] theorem finish_inputs (e : ErrCode) : (s.finish e).inputs = s.inputs := rfl
@[simp] theorem finish_draws (e : ErrCode) : (s.finish e).draws = s.draws := rfl
@[simp] theorem finish_epoch (e : ErrCode) : (s.finish e).epoch = s.epoch := rfl

@[simp] theorem lock_cfg : s.lock.cfg = s.cfg := rfl
@[simp] theorem lock_phase : s.lock.phase = .locked := rfl
@[simp] theorem lock_status : s.lock.status = { s.status with done := true, err := .invalidArg, exitCode := s.cfg.fatalCode } := rfl
@[simp] theorem lock_irqEn : s.lock.irqEn = s.irqEn := rfl
@[simp] theorem lock_regs : s.lock.regs = s.regs := rfl
@[simp] theorem lock_mem : s.lock.mem = s.mem := rfl
@[simp] theorem lock_port : s.lock.port = s.port := rfl
@[simp] theorem lock_dbg : s.lock.dbg = s.dbg := rfl
@[simp] theorem lock_inputs : s.lock.inputs = s.inputs := rfl
@[simp] theorem lock_draws : s.lock.draws = s.draws := rfl
@[simp] theorem lock_epoch : s.lock.epoch = s.epoch := rfl

@[simp] theorem writeStatus_cfg (v : Word) : (s.writeStatus v).cfg = s.cfg := rfl
@[simp] theorem writeStatus_phase (v : Word) : (s.writeStatus v).phase = s.phase := rfl
@[simp] theorem writeStatus_status (v : Word) : (s.writeStatus v).status = { s.status with done := s.status.done && !v.getLsbD 1, werr := s.status.werr && !v.getLsbD 3 } := rfl
@[simp] theorem writeStatus_irqEn (v : Word) : (s.writeStatus v).irqEn = s.irqEn := rfl
@[simp] theorem writeStatus_regs (v : Word) : (s.writeStatus v).regs = s.regs := rfl
@[simp] theorem writeStatus_mem (v : Word) : (s.writeStatus v).mem = s.mem := rfl
@[simp] theorem writeStatus_port (v : Word) : (s.writeStatus v).port = s.port := rfl
@[simp] theorem writeStatus_dbg (v : Word) : (s.writeStatus v).dbg = s.dbg := rfl
@[simp] theorem writeStatus_inputs (v : Word) : (s.writeStatus v).inputs = s.inputs := rfl
@[simp] theorem writeStatus_draws (v : Word) : (s.writeStatus v).draws = s.draws := rfl
@[simp] theorem writeStatus_epoch (v : Word) : (s.writeStatus v).epoch = s.epoch := rfl

@[simp] theorem writeIrqEn_cfg (v : Word) : (s.writeIrqEn v).cfg = s.cfg := rfl
@[simp] theorem writeIrqEn_phase (v : Word) : (s.writeIrqEn v).phase = s.phase := rfl
@[simp] theorem writeIrqEn_status (v : Word) : (s.writeIrqEn v).status = s.status := rfl
@[simp] theorem writeIrqEn_irqEn (v : Word) : (s.writeIrqEn v).irqEn = { doneIe := v.getLsbD 0, fatalIe := v.getLsbD 1 } := rfl
@[simp] theorem writeIrqEn_regs (v : Word) : (s.writeIrqEn v).regs = s.regs := rfl
@[simp] theorem writeIrqEn_mem (v : Word) : (s.writeIrqEn v).mem = s.mem := rfl
@[simp] theorem writeIrqEn_port (v : Word) : (s.writeIrqEn v).port = s.port := rfl
@[simp] theorem writeIrqEn_dbg (v : Word) : (s.writeIrqEn v).dbg = s.dbg := rfl
@[simp] theorem writeIrqEn_inputs (v : Word) : (s.writeIrqEn v).inputs = s.inputs := rfl
@[simp] theorem writeIrqEn_draws (v : Word) : (s.writeIrqEn v).draws = s.draws := rfl
@[simp] theorem writeIrqEn_epoch (v : Word) : (s.writeIrqEn v).epoch = s.epoch := rfl

@[simp] theorem ignoreWrite_cfg : s.ignoreWrite.cfg = s.cfg := rfl
@[simp] theorem ignoreWrite_phase : s.ignoreWrite.phase = s.phase := rfl
@[simp] theorem ignoreWrite_status : s.ignoreWrite.status = { s.status with werr := true } := rfl
@[simp] theorem ignoreWrite_irqEn : s.ignoreWrite.irqEn = s.irqEn := rfl
@[simp] theorem ignoreWrite_regs : s.ignoreWrite.regs = s.regs := rfl
@[simp] theorem ignoreWrite_mem : s.ignoreWrite.mem = s.mem := rfl
@[simp] theorem ignoreWrite_port : s.ignoreWrite.port = s.port := rfl
@[simp] theorem ignoreWrite_dbg : s.ignoreWrite.dbg = s.dbg := rfl
@[simp] theorem ignoreWrite_inputs : s.ignoreWrite.inputs = s.inputs := rfl
@[simp] theorem ignoreWrite_draws : s.ignoreWrite.draws = s.draws := rfl
@[simp] theorem ignoreWrite_epoch : s.ignoreWrite.epoch = s.epoch := rfl

end Sys2Proof.Machine.State
end

