-- ==== Sys2Proof/Laws/Memory.lean ====
section
/-! SUPPORT. Memory: a read after a write, the canonical form, and the buffers as the commands and the port use them. -/

namespace Sys2Proof.Machine

/-! ### One byte -/

theorem Memory.read?_write (m : Memory) (a b : Nat) (v : Byte) :
    Memory.read? (m.write a v) b = if b = a then some v else m.read? b := by
  induction m with
  | nil => simp [Memory.write, Memory.read?]
  | cons cell m ih =>
    obtain ⟨c, w⟩ := cell
    simp only [Memory.write]
    split
    · simp [Memory.read?]
    · split
      · subst_vars; simp only [Memory.read?]; split <;> simp_all
      · simp only [Memory.read?, ih]; split
        · subst_vars; rw [if_neg]; omega
        · rfl

/-- Every cell after a write is the new one or an old one. -/
theorem Memory.mem_write {m : Memory} {a : Nat} {v : Byte} {cell : Host.Cell} (h : cell ∈ m.write a v) :
    cell = (a, v) ∨ cell ∈ m := by
  induction m with
  | nil => simpa [Memory.write] using h
  | cons c m ih =>
    simp only [Memory.write] at h
    split at h
    · simpa using h
    · split at h
      · rcases List.mem_cons.mp h with h | h
        · exact .inl h
        · exact .inr (List.mem_cons_of_mem _ h)
      · rcases List.mem_cons.mp h with h | h
        · exact .inr (h ▸ List.mem_cons_self)
        · exact (ih h).imp_right (List.mem_cons_of_mem _)

/-- A write keeps the canonical form. -/
theorem Memory.write_wf {m : Memory} (h : m.wf) (a : Nat) (v : Byte) : Memory.wf (m.write a v) := by
  induction m with
  | nil => simp [Memory.wf, Memory.write]
  | cons c m ih =>
    obtain ⟨b, w⟩ := c
    simp only [Memory.wf, List.map_cons, List.pairwise_cons] at h
    obtain ⟨hb, hm⟩ := h
    simp only [Memory.write]
    split
    · rename_i hab
      simp only [Memory.wf, List.map_cons, List.pairwise_cons, List.mem_cons]
      refine ⟨?_, hb, hm⟩
      rintro x (rfl | hx)
      · exact hab
      · exact lt_trans hab (hb x hx)
    · split
      · subst_vars
        simpa only [Memory.wf, List.map_cons, List.pairwise_cons] using ⟨hb, hm⟩
      · simp only [Memory.wf, List.map_cons, List.pairwise_cons]
        refine ⟨?_, ih hm⟩
        intro x hx
        obtain ⟨cell, hcell, rfl⟩ := List.mem_map.mp hx
        rcases Memory.mem_write hcell with rfl | hold
        · simp only; omega
        · exact hb _ (List.mem_map_of_mem hold)

/-! ### Several bytes -/

/-- The byte at an offset after `MemWrite`: byte `b − a` of the value inside the range, the old byte outside. -/
theorem Memory.read?_writeLE (m : Memory) (a n v b : Nat) :
    Memory.read? (m.writeLE a n v) b =
      if a ≤ b ∧ b < a + n then some (BitVec.ofNat 8 (v / 256 ^ (b - a))) else m.read? b := by
  induction n generalizing m a v with
  | zero => simp only [Memory.writeLE]; rw [if_neg (by omega)]
  | succ n ih =>
    rw [Memory.writeLE, ih, Memory.read?_write]
    by_cases hb : b = a
    · subst hb; simp
    · by_cases hr : a + 1 ≤ b ∧ b < a + 1 + n
      · rw [if_pos hr, if_pos (by omega), Nat.div_div_eq_div_mul]
        obtain ⟨k, rfl⟩ : ∃ k, b = a + 1 + k := ⟨b - (a + 1), by omega⟩
        rw [show a + 1 + k - a = (a + 1 + k - (a + 1)) + 1 by omega, Nat.pow_succ, Nat.mul_comm]
      · rw [if_neg hr, if_neg hb, if_neg (by omega)]

theorem Memory.writeLE_wf {m : Memory} (h : m.wf) (a n v : Nat) : Memory.wf (m.writeLE a n v) := by
  induction n generalizing m a v with
  | zero => exact h
  | succ n ih => exact ih (Memory.write_wf h _ _) _ _

/-- A cell after `MemWrite` lies in the range written or is an old one. -/
theorem Memory.mem_writeLE {m : Memory} {a n v : Nat} {cell : Host.Cell} (h : cell ∈ m.writeLE a n v) :
    (a ≤ cell.1 ∧ cell.1 < a + n) ∨ cell ∈ m := by
  induction n generalizing m a v with
  | zero => exact .inr h
  | succ n ih =>
    rcases ih h with h | h
    · exact .inl (by omega)
    · rcases Memory.mem_write h with rfl | h
      · exact .inl (by simp)
      · exact .inr h

/-! ### The buffers -/

/-- A byte of the window after ciphertext unit i is written. -/
theorem State.readByte_writeCt (s : State) (i : Nat) (v : Word) (a : Nat) :
    (s.writeCt i v).readByte a =
      if ctBase + 8 * i ≤ a ∧ a < ctBase + 8 * i + 8 then BitVec.ofNat 8 (v.toNat / 256 ^ (a - (ctBase + 8 * i)))
      else s.readByte a := by
  simp only [State.readByte, State.writeCt_mem, State.writeCt_epoch, Memory.read?_writeLE]
  by_cases h : ctBase + 8 * i ≤ a ∧ a < ctBase + 8 * i + 8
  · rw [if_pos h, if_pos h]
  · rw [if_neg h, if_neg h]

/-- The bytes read depend only on memory and on the reset they date from. -/
theorem State.readByte_congr {s t : State} (hm : t.mem = s.mem) (he : t.epoch = s.epoch) (a : Nat) :
    t.readByte a = s.readByte a := by
  simp [State.readByte, hm, he]

/-- Equal bytes read as equal words. -/
theorem State.readLE_congr {s t : State} {a n : Nat} (h : ∀ b, a ≤ b → b < a + n → t.readByte b = s.readByte b) :
    t.readLE a n = s.readLE a n := by
  induction n generalizing a with
  | zero => rfl
  | succ n ih =>
    rw [State.readLE, State.readLE, h a (Nat.le_refl a) (by omega), ih fun b h1 h2 => h b (by omega) (by omega)]

/-- The bytes of a value, least significant first, read back as the value. -/
theorem State.readLE_bytes {s : State} {a n v : Nat} (h : ∀ k < n, s.readByte (a + k) = BitVec.ofNat 8 (v / 256 ^ k)) :
    s.readLE a n = v % 256 ^ n := by
  induction n generalizing a v with
  | zero => simp [State.readLE, Nat.mod_one]
  | succ n ih =>
    have h0 := h 0 (by omega)
    have hs : ∀ k < n, s.readByte (a + 1 + k) = BitVec.ofNat 8 (v / 256 / 256 ^ k) := by
      intro k hk
      rw [show a + 1 + k = a + (k + 1) by omega, h (k + 1) (by omega), Nat.div_div_eq_div_mul, Nat.pow_succ, Nat.mul_comm]
    rw [State.readLE, ih hs]
    simp only [Nat.add_zero, Nat.pow_zero, Nat.div_one] at h0
    rw [h0, Nat.pow_succ, Nat.mul_comm (256 ^ n) 256, Nat.mod_mul]
    simp

/-- Ciphertext unit i reads back as the word written there. -/
theorem State.ctUnit_writeCt_same (s : State) (i : Nat) (v : Word) : (s.writeCt i v).ctUnit i = v := by
  have h : (s.writeCt i v).readLE (ctBase + 8 * i) 8 = v.toNat % 256 ^ 8 := by
    refine State.readLE_bytes fun k hk => ?_
    rw [State.readByte_writeCt, if_pos (by omega), Nat.add_sub_cancel_left]
  rw [State.ctUnit, h]
  apply BitVec.eq_of_toNat_eq
  have := v.isLt
  rw [BitVec.toNat_ofNat]
  omega

/-- The other ciphertext units are left. -/
theorem State.ctUnit_writeCt_other (s : State) {i j : Nat} (h : j ≠ i) (v : Word) :
    (s.writeCt i v).ctUnit j = s.ctUnit j := by
  rw [State.ctUnit, State.ctUnit, State.readLE_congr]
  intro b h1 h2
  rw [State.readByte_writeCt, if_neg (by omega)]

/-- No ciphertext unit shares a byte with a message byte. -/
theorem State.msgByte_writeCt (s : State) (i : Nat) (v : Word) {k : Nat} (hk : k < 65536) :
    (s.writeCt i v).msgByte k = s.msgByte k := by
  rw [State.msgByte, State.readByte_writeCt, if_neg (by simp only [msgBase, ctBase]; omega), ← State.msgByte]

/-- A byte of the window after the n bytes of v are written to the message from byte i. -/
theorem read?_writeMsgBytes (cap : Nat) (m : Memory) (i n v b : Nat) :
    Memory.read? (writeMsgBytes cap m i n v) b =
      if msgBase + i ≤ b ∧ b < msgBase + i + n ∧ b < msgBase + cap then
        some (BitVec.ofNat 8 (v / 256 ^ (b - (msgBase + i))))
      else m.read? b := by
  induction n generalizing m i v with
  | zero => simp only [writeMsgBytes]; rw [if_neg (by omega)]
  | succ n ih =>
    rw [writeMsgBytes, ih]
    by_cases hb : b = msgBase + i
    · subst hb
      rw [if_neg (by omega)]
      by_cases hc : i < cap
      · rw [if_pos hc, Memory.read?_write, if_pos rfl, if_pos (by omega)]; simp
      · rw [if_neg hc, if_neg (by omega)]
    · have hold : Memory.read? (if i < cap then m.write (msgBase + i) (BitVec.ofNat 8 v) else m) b = m.read? b := by
        split
        · rw [Memory.read?_write, if_neg hb]
        · rfl
      rw [hold]
      by_cases hr : msgBase + (i + 1) ≤ b ∧ b < msgBase + (i + 1) + n ∧ b < msgBase + cap
      · rw [if_pos hr, if_pos (by omega), Nat.div_div_eq_div_mul,
          show b - (msgBase + i) = (b - (msgBase + (i + 1))) + 1 by omega, Nat.pow_succ, Nat.mul_comm]
      · rw [if_neg hr, if_neg (by omega)]

theorem writeMsgBytes_wf (cap : Nat) {m : Memory} (h : m.wf) (i n v : Nat) : Memory.wf (writeMsgBytes cap m i n v) := by
  induction n generalizing m i v with
  | zero => exact h
  | succ n ih =>
    rw [writeMsgBytes]
    split
    · exact ih (Memory.write_wf h _ _) _ _
    · exact ih h _ _

/-- A cell after a MSGBUF write lies in the message or is an old one. -/
theorem mem_writeMsgBytes (cap : Nat) {m : Memory} {i n v : Nat} {cell : Host.Cell}
    (h : cell ∈ writeMsgBytes cap m i n v) :
    (msgBase ≤ cell.1 ∧ cell.1 < msgBase + cap) ∨ cell ∈ m := by
  induction n generalizing m i v with
  | zero => exact .inr h
  | succ n ih =>
    rw [writeMsgBytes] at h
    rcases ih h with h | h
    · exact .inl h
    · split at h
      · rename_i hi
        rcases Memory.mem_write h with rfl | h
        · exact .inl (by simp only; omega)
        · exact .inr h
      · exact .inr h

end Sys2Proof.Machine
end

