-- ==== Sys2Proof/Laws/Ops.lean ====
section
/-! SUPPORT. What each shared operation over the state can do, said once: completion, failed checks, errors, free values in a write
set, reset, the start of a step, and the loops over CTBUF. -/

namespace Sys2Proof.Machine

/-! ### Failed checks and errors -/

/-- A failed check with `ASSERT_EN` = 1 locks the unit (R141, R312). -/
theorem State.checkFailed_enforced (havoc : State → State) {s : State} (h : s.cfg.assertEn = true) :
    s.checkFailed havoc = .next s.lock := by simp [State.checkFailed, h]

/-- A failed check with `ASSERT_EN` = 0 is unconstrained (R142). -/
theorem State.checkFailed_skipped (havoc : State → State) {s : State} (h : s.cfg.assertEn = false) :
    s.checkFailed havoc = .next (s.unconstrained havoc) := by simp [State.checkFailed, h]

/-- The two outcomes of R142. -/
theorem State.unconstrained_cases (havoc : State → State) (s : State) :
    s.unconstrained havoc = (s.setDraws (s.draws + 1)).setPhase (.busy .hung) ∨
      s.unconstrained havoc = (havoc (s.setDraws (s.draws + 1))).finish .none := by
  unfold State.unconstrained
  split
  · exact .inl rfl
  · exact .inr rfl

/-- Everything a failed check can lead to. -/
theorem State.checkFailed_cases {havoc : State → State} {s t : State} (h : s.checkFailed havoc = .next t) :
    (s.cfg.assertEn = true ∧ t = s.lock) ∨
      (s.cfg.assertEn = false ∧
        (t = (s.setDraws (s.draws + 1)).setPhase (.busy .hung) ∨ t = (havoc (s.setDraws (s.draws + 1))).finish .none)) := by
  simp only [State.checkFailed, Host.Outcome.next.injEq] at h
  cases ha : s.cfg.assertEn <;> simp only [ha] at h
  · exact .inr ⟨rfl, (State.unconstrained_cases havoc s).imp (fun e => by simpa [e] using h.symm) (fun e => by simpa [e] using h.symm)⟩
  · exact .inl ⟨rfl, by simpa using h.symm⟩

/-- A failed check always answers a next state. -/
theorem State.checkFailed_next (havoc : State → State) (s : State) : ∃ t, s.checkFailed havoc = .next t := ⟨_, rfl⟩

@[simp] theorem State.raise_exhausted (s : State) : s.raise .exhausted = s.finish .exhausted := rfl
@[simp] theorem State.raise_illegalCmd (s : State) : s.raise .illegalCmd = s.finish .illegalCmd := rfl
@[simp] theorem State.raise_resource (s : State) : s.raise .resource = s.notifyResource.finish .resource := rfl

/-- A RESOURCE error emits one diagnostic event when `DEBUG_EN` = 1 and changes nothing else (R279). -/
theorem State.notifyResource_eq (s : State) :
    s.notifyResource = { s with dbg := s.dbg + if s.cfg.debugEn then 1 else 0 } := by
  unfold State.notifyResource
  split <;> rfl

/-! ### The start of a step and reset -/

/-- The start of a step takes the event off the list and may emit diagnostic events; nothing else changes (R331). -/
theorem State.begin_eq (s : State) :
    s.begin =
      { s with
        inputs := s.inputs.tail
        dbg := s.dbg + if s.cfg.debugEn then Config.freeCount s.draws else 0
        draws := s.draws + if s.cfg.debugEn then 1 else 0 } := by
  simp only [State.begin]
  split <;> rfl

@[simp] theorem State.begin_cfg (s : State) : s.begin.cfg = s.cfg := by rw [State.begin_eq]
@[simp] theorem State.begin_phase (s : State) : s.begin.phase = s.phase := by rw [State.begin_eq]
@[simp] theorem State.begin_status (s : State) : s.begin.status = s.status := by rw [State.begin_eq]
@[simp] theorem State.begin_irqEn (s : State) : s.begin.irqEn = s.irqEn := by rw [State.begin_eq]
@[simp] theorem State.begin_regs (s : State) : s.begin.regs = s.regs := by rw [State.begin_eq]
@[simp] theorem State.begin_mem (s : State) : s.begin.mem = s.mem := by rw [State.begin_eq]
@[simp] theorem State.begin_port (s : State) : s.begin.port = s.port := by rw [State.begin_eq]
@[simp] theorem State.begin_inputs (s : State) : s.begin.inputs = s.inputs.tail := by rw [State.begin_eq]
@[simp] theorem State.begin_epoch (s : State) : s.begin.epoch = s.epoch := by rw [State.begin_eq]

@[simp] theorem State.powerOn_cfg (c : Params) : (State.powerOn c).cfg = c := rfl
@[simp] theorem State.applyReset_cfg (s : State) : s.applyReset.cfg = s.cfg := rfl
@[simp] theorem State.applyReset_phase (s : State) : s.applyReset.phase = .idle := rfl
@[simp] theorem State.applyReset_mem (s : State) : s.applyReset.mem = [] := rfl
@[simp] theorem State.applyReset_inputs (s : State) : s.applyReset.inputs = s.inputs := rfl

/-! ### Loops over CTBUF -/

/-- What a loop over CT[0 … k−1] leaves alone: everything but the counter of free values and CTBUF's bytes below unit k. -/
structure CtFrame (s t : State) (k : Nat) : Prop where
  cfg : t.cfg = s.cfg
  phase : t.phase = s.phase
  status : t.status = s.status
  irqEn : t.irqEn = s.irqEn
  regs : t.regs = s.regs
  port : t.port = s.port
  dbg : t.dbg = s.dbg
  inputs : t.inputs = s.inputs
  epoch : t.epoch = s.epoch
  bytes : ∀ a, ¬(ctBase ≤ a ∧ a < ctBase + 8 * k) → t.readByte a = s.readByte a
  cells : ∀ cell ∈ t.mem, (ctBase ≤ cell.1 ∧ cell.1 < ctBase + 8 * k) ∨ cell ∈ s.mem
  canonical : s.mem.wf → t.mem.wf

theorem CtFrame.refl (s : State) : CtFrame s s 0 :=
  ⟨rfl, rfl, rfl, rfl, rfl, rfl, rfl, rfl, rfl, fun _ _ => rfl, fun _ h => .inr h, id⟩

/-- One more unit written. -/
theorem CtFrame.step {s t : State} {k : Nat} (h : CtFrame s t k) (v : Word) (d : Nat) :
    CtFrame s ((t.writeCt k v).setDraws d) (k + 1) where
  cfg := h.cfg
  phase := h.phase
  status := h.status
  irqEn := h.irqEn
  regs := h.regs
  port := h.port
  dbg := h.dbg
  inputs := h.inputs
  epoch := h.epoch
  bytes a ha := by
    rw [State.readByte_congr (t := (t.writeCt k v).setDraws d) (s := t.writeCt k v) rfl rfl, State.readByte_writeCt,
      if_neg (by omega), h.bytes a (by omega)]
  cells cell hc := by
    rcases Memory.mem_writeLE hc with hc | hc
    · exact .inl (by omega)
    · exact (h.cells cell hc).imp_left (by omega)
  canonical hw := Memory.writeLE_wf (h.canonical hw) _ _ _

theorem State.encryptUnits_frame (e n : Word) (k : Nat) (s : State) : CtFrame s (State.encryptUnits e n k s) k := by
  induction k with
  | zero => exact CtFrame.refl s
  | succ k ih => exact ih.step _ _

theorem State.havocCt_frame (k : Nat) (s : State) : CtFrame s (State.havocCt k s) k := by
  induction k with
  | zero => exact CtFrame.refl s
  | succ k ih => exact ih.step _ _

/-- The message is read as it stands: no unit written overlaps it. -/
theorem CtFrame.msgByte {s t : State} {k i : Nat} (h : CtFrame s t k) (hi : i < 65536) : t.msgByte i = s.msgByte i := by
  rw [State.msgByte, State.msgByte, h.bytes _ (by simp only [msgBase, ctBase]; omega)]

/-- A unit at or above k is left. -/
theorem CtFrame.ctUnit_above {s t : State} {k i : Nat} (h : CtFrame s t k) (hi : k ≤ i) : t.ctUnit i = s.ctUnit i := by
  rw [State.ctUnit, State.ctUnit, State.readLE_congr fun b h1 h2 => h.bytes b (by omega)]

/-- Where no free value is taken, unit i of the ciphertext is PM of message byte i, and the counter stands (R277). -/
theorem State.encryptUnits_exact {e n : Word} {k : Nat} (s : State) (hk : k ≤ 65536)
    (hpm : ∀ x : Word, ∀ d, (powModUnit x e n d).2 = d) :
    (State.encryptUnits e n k s).draws = s.draws ∧
      ∀ i < k, (State.encryptUnits e n k s).ctUnit i = (powModUnit ((s.msgByte i).setWidth 64) e n s.draws).1 := by
  induction k with
  | zero => exact ⟨rfl, fun i hi => absurd hi (Nat.not_lt_zero i)⟩
  | succ k ih =>
    obtain ⟨hd, hu⟩ := ih (by omega)
    have hf := State.encryptUnits_frame e n k s
    refine ⟨?_, fun i hi => ?_⟩
    · rw [State.encryptUnits, State.encryptUnit, State.setDraws_draws, hpm, hd]
    · rw [State.encryptUnits, State.encryptUnit, hf.msgByte (by omega), hd]
      have hset : ∀ (u : State) (d j : Nat), (u.setDraws d).ctUnit j = u.ctUnit j := fun _ _ _ => rfl
      rw [hset]
      by_cases h : i = k
      · subst h; rw [State.ctUnit_writeCt_same]
      · rw [State.ctUnit_writeCt_other _ h, hu i (by omega)]

end Sys2Proof.Machine
end

