-- ==== Sys2Proof/Laws/Bus.lean ====
section
/-! SUPPORT. What a host transaction can do, said once: what none changes, what a read changes, and what one changes while a command
runs or the unit is locked. -/

namespace Sys2Proof.Machine

/-- A read changes the response and the counter of free values alone (R76). -/
theorem State.transact_read (s : State) (off : BitVec 20) (bytes : Nat) :
    ∃ r d, s.transact (.read off bytes) = { s with port := some r, draws := d } := by
  simp only [State.transact]
  split
  · exact ⟨_, _, rfl⟩
  · simp only [State.readTarget]
    split
    · exact ⟨_, _, rfl⟩
    · exact ⟨_, s.draws, rfl⟩
  · simp_all
  · simp_all

/-- A rejected transaction changes the response and the counter of free values alone (R72, R73, R77). -/
theorem State.transact_rejected {s : State} {t : Transaction} (h : t.target s.cfg = none) :
    ∃ data d, s.transact t = { s with port := some { resp := .slverr, data := data }, draws := d } := by
  cases t with
  | read off bytes => exact ⟨_, _, by simp only [State.transact, h]; rfl⟩
  | write off bytes strobes v => exact ⟨none, s.draws, by simp only [State.transact, h]; rfl⟩

/-- What an accepted write does. -/
theorem State.transact_write {s : State} {off : BitVec 20} {bytes : Nat} {strobes : BitVec 8} {v : Word} {g : Target}
    (h : (Transaction.write off bytes strobes v).target s.cfg = some g) :
    s.transact (.write off bytes strobes v) = (s.writeTarget v g).setPort { resp := .okay, data := none } := by
  simp only [State.transact, h]

/-- While a command runs or the unit is locked, a write touches only STATUS's W1C bits, IRQ_EN or WERR (R39, R40, R46 (b), R132). -/
theorem State.writeTarget_not_idle {s : State} (h : s.phase ≠ .idle) (v : Word) (g : Target) :
    s.writeTarget v g = s.writeStatus v ∨ s.writeTarget v g = s.writeIrqEn v ∨ s.writeTarget v g = s.ignoreWrite := by
  rw [State.writeTarget, if_neg h]
  split
  · exact .inl rfl
  · split
    · exact .inr (.inl rfl)
    · exact .inr (.inr rfl)

/-- What no transaction changes. -/
structure BusFrame (s t : State) : Prop where
  cfg : t.cfg = s.cfg
  dbg : t.dbg = s.dbg
  inputs : t.inputs = s.inputs
  epoch : t.epoch = s.epoch
  exitCode : t.status.exitCode = s.status.exitCode

theorem State.writeCursor_frame (s : State) (v : Word) : BusFrame s (s.writeCursor v) := by
  unfold State.writeCursor
  split
  · exact ⟨rfl, rfl, rfl, rfl, rfl⟩
  · split <;> exact ⟨rfl, rfl, rfl, rfl, rfl⟩

theorem State.writeIdle_frame (s : State) (v : Word) (g : Target) : BusFrame s (s.writeIdle v g) := by
  cases g
  case pcur => exact State.writeCursor_frame s v
  all_goals exact ⟨rfl, rfl, rfl, rfl, rfl⟩

theorem State.transact_frame (s : State) (t : Transaction) : BusFrame s (s.transact t) := by
  cases t with
  | read off bytes =>
    obtain ⟨r, d, h⟩ := s.transact_read off bytes
    rw [h]; exact ⟨rfl, rfl, rfl, rfl, rfl⟩
  | write off bytes strobes v =>
    cases ht : (Transaction.write off bytes strobes v).target s.cfg with
    | none =>
      obtain ⟨data, d, h⟩ := State.transact_rejected ht
      rw [h]; exact ⟨rfl, rfl, rfl, rfl, rfl⟩
    | some g =>
      rw [State.transact_write ht]
      have hw : BusFrame s (s.writeTarget v g) := by
        unfold State.writeTarget
        split
        · exact ⟨rfl, rfl, rfl, rfl, rfl⟩
        · split
          · exact ⟨rfl, rfl, rfl, rfl, rfl⟩
          · split
            · exact s.writeIdle_frame v g
            · exact ⟨rfl, rfl, rfl, rfl, rfl⟩
      exact ⟨hw.cfg, hw.dbg, hw.inputs, hw.epoch, hw.exitCode⟩

/-- No transaction changes a command's inputs, the phase or the result registers while a command runs or the unit is locked (R46, R81). -/
theorem State.transact_not_idle {s : State} (h : s.phase ≠ .idle) (t : Transaction) :
    (s.transact t).phase = s.phase ∧ (s.transact t).regs = s.regs ∧ (s.transact t).mem = s.mem ∧
      (s.transact t).status.err = s.status.err ∧ (s.transact t).status.lastOp = s.status.lastOp ∧
      (s.status.done = false → (s.transact t).status.done = false) := by
  cases t with
  | read off bytes =>
    obtain ⟨r, d, h⟩ := s.transact_read off bytes
    rw [h]; exact ⟨rfl, rfl, rfl, rfl, rfl, id⟩
  | write off bytes strobes v =>
    cases ht : (Transaction.write off bytes strobes v).target s.cfg with
    | none =>
      obtain ⟨data, d, h⟩ := State.transact_rejected ht
      rw [h]; exact ⟨rfl, rfl, rfl, rfl, rfl, id⟩
    | some g =>
      rw [State.transact_write ht]
      rcases State.writeTarget_not_idle h v g with hw | hw | hw <;> rw [hw]
      · exact ⟨rfl, rfl, rfl, rfl, rfl, fun hd => by simp [hd]⟩
      · exact ⟨rfl, rfl, rfl, rfl, rfl, id⟩
      · exact ⟨rfl, rfl, rfl, rfl, rfl, id⟩

end Sys2Proof.Machine
end

