-- ==== Sys2Proof/Laws/Exec.lean ====
section
/-! SUPPORT. What any command can do when it completes, said once for all eleven: `exec_completion`, and for the cursor of TABLE mode
`exec_cursor`. -/

namespace Sys2Proof.Machine

/-- What a command's writes leave alone before its completion changes STATUS and the phase, and what they keep; `F` says when PCUR may
take a free value. -/
structure Writes (F : Prop) (s u : State) : Prop where
  cfg : u.cfg = s.cfg
  status : u.status = s.status
  irqEn : u.irqEn = s.irqEn
  port : u.port = s.port
  inputs : u.inputs = s.inputs
  epoch : u.epoch = s.epoch
  opa : u.regs.opa = s.regs.opa
  opb : u.regs.opb = s.regs.opb
  opc : u.regs.opc = s.regs.opc
  msgLen : u.regs.msgLen = s.regs.msgLen
  canonical : s.mem.wf → u.mem.wf
  cells : ∀ cell ∈ u.mem, inBuffers s.cfg cell.1 ∨ cell ∈ s.mem
  bytes : ∀ a, ¬(ctBase ≤ a ∧ a < ctBase + 8 * s.cfg.bufCap) → u.readByte a = s.readByte a
  cursor : CursorInv s → CursorInv u ∨ F
  dbg : s.dbg ≤ u.dbg
  dbgOff : s.cfg.debugEn = false → u.dbg = s.dbg

variable {F : Prop}

theorem Writes.refl (s : State) : Writes F s s :=
  ⟨rfl, rfl, rfl, rfl, rfl, rfl, rfl, rfl, rfl, rfl, id, fun _ h => .inr h, fun _ _ => rfl, .inl, Nat.le_refl _, fun _ => rfl⟩

theorem Writes.trans {s u v : State} (h : Writes F s u) (g : Writes F u v) : Writes F s v where
  cfg := g.cfg.trans h.cfg
  status := g.status.trans h.status
  irqEn := g.irqEn.trans h.irqEn
  port := g.port.trans h.port
  inputs := g.inputs.trans h.inputs
  epoch := g.epoch.trans h.epoch
  opa := g.opa.trans h.opa
  opb := g.opb.trans h.opb
  opc := g.opc.trans h.opc
  msgLen := g.msgLen.trans h.msgLen
  canonical hs := g.canonical (h.canonical hs)
  cells cell hc := by
    rcases g.cells cell hc with hc | hc
    · exact .inl (h.cfg ▸ hc)
    · exact h.cells cell hc
  bytes a ha := by rw [g.bytes a (by rw [h.cfg]; exact ha), h.bytes a ha]
  cursor hs := (h.cursor hs).elim g.cursor .inr
  dbg := Nat.le_trans h.dbg g.dbg
  dbgOff hd := (g.dbgOff (by rw [h.cfg, hd])).trans (h.dbgOff hd)

/-- Registers other than PCUR and the host's own. -/
theorem Writes.regs (s : State) (r : Regs) (ha : r.opa = s.regs.opa) (hb : r.opb = s.regs.opb) (hc : r.opc = s.regs.opc)
    (hl : r.msgLen = s.regs.msgLen) (hp : CursorInv s → CursorInv (s.setRegs r) ∨ F) : Writes F s (s.setRegs r) :=
  ⟨rfl, rfl, rfl, rfl, rfl, rfl, ha, hb, hc, hl, id, fun _ h => .inr h, fun _ _ => rfl, hp, Nat.le_refl _, fun _ => rfl⟩

theorem Writes.draws (s : State) (d : Nat) : Writes F s (s.setDraws d) :=
  ⟨rfl, rfl, rfl, rfl, rfl, rfl, rfl, rfl, rfl, rfl, id, fun _ h => .inr h, fun _ _ => rfl, .inl, Nat.le_refl _, fun _ => rfl⟩

theorem Writes.res0 (s : State) (v : Word) : Writes F s (s.setRes0 v) := Writes.regs s _ rfl rfl rfl rfl .inl

theorem Writes.key (s : State) (k : KeyMaterial) : Writes F s (s.setKey k) := Writes.regs s _ rfl rfl rfl rfl .inl

theorem Writes.notify (s : State) : Writes F s s.notifyResource := by
  rw [State.notifyResource_eq]
  exact ⟨rfl, rfl, rfl, rfl, rfl, rfl, rfl, rfl, rfl, rfl, id, fun _ h => .inr h, fun _ _ => rfl, .inl, Nat.le_add_right _ _,
    fun h => by simp [h]⟩

/-- With `DEBUG_EN` = 1 a RESOURCE error emits an event (R279). -/
theorem State.notifyResource_dbg {s : State} (h : s.cfg.debugEn = true) : s.notifyResource.dbg = s.dbg + 1 := by
  rw [State.notifyResource_eq]; simp [h]

/-- A cursor is legal in the sense of R45. -/
def LegalCursor (c : Params) (v : Word) : Prop := ∀ entries, c.source = .table entries → v.toNat < entries.length

theorem Writes.prime {s : State} {p c1 : Word} (h : CursorInv s → LegalCursor s.cfg c1) : Writes F s (s.setPrime p c1) :=
  Writes.regs s _ rfl rfl rfl rfl fun hs => .inl (h hs)

theorem Writes.primes {s : State} {p q c2 : Word} (h : CursorInv s → LegalCursor s.cfg c2 ∨ F) :
    Writes F s (s.setPrimes p q c2) := Writes.regs s _ rfl rfl rfl rfl h

theorem Writes.ofCt {s t : State} {k : Nat} (h : CtFrame s t k) (hk : k ≤ s.cfg.bufCap) : Writes F s t where
  cfg := h.cfg
  status := h.status
  irqEn := h.irqEn
  port := h.port
  inputs := h.inputs
  epoch := h.epoch
  opa := by rw [h.regs]
  opb := by rw [h.regs]
  opc := by rw [h.regs]
  msgLen := by rw [h.regs]
  canonical := h.canonical
  cells cell hc := (h.cells cell hc).imp_left fun hb => Or.inr (by omega)
  bytes a ha := h.bytes a (by omega)
  cursor hs := .inl fun entries he => by rw [h.regs]; exact hs entries (h.cfg ▸ he)
  dbg := Nat.le_of_eq h.dbg.symm
  dbgOff _ := h.dbg

/-! ### Free values in a write set -/

theorem Writes.havocRes0 (s : State) : Writes F s s.havocRes0 := (Writes.res0 s _).trans (Writes.draws _ _)

theorem Writes.havocKey (s : State) : Writes F s s.havocKey := by
  unfold State.havocKey
  refine Writes.trans ?_ (Writes.draws _ _)
  exact Writes.regs s _ rfl rfl rfl rfl .inl

theorem toNat_ofNat_le (n : Nat) : (BitVec.ofNat 64 n).toNat ≤ n := by
  rw [BitVec.toNat_ofNat]; exact Nat.mod_le _ _

theorem Writes.havocKeyPhase (hF : F) (s : State) : Writes F s s.havocKeyPhase :=
  ((Writes.primes fun _ => .inr hF).trans (Writes.draws _ _)).trans (Writes.havocKey _)

theorem Writes.havocCt {s : State} {k : Nat} (hk : k ≤ s.cfg.bufCap) : Writes F s (State.havocCt k s) :=
  Writes.ofCt (State.havocCt_frame k s) hk

theorem Writes.havocGenerate (hF : F) (s : State) : Writes F s s.havocGenerate :=
  (Writes.havocKeyPhase hF s).trans
    (Writes.havocCt (by rw [(Writes.havocKeyPhase hF s).cfg]; exact Nat.min_le_right _ _))

/-! ### The prime source -/

/-- NEXTPRIME answers a legal cursor whatever cursor it starts from, when the table has an entry at all (R221, R45). -/
theorem nextPrime_legal {c : Params} {cur d p c1 d1 : Nat} (hpos : ∀ entries, c.source = .table entries → 0 < entries.length)
    (h : nextPrime c.source cur d = .found p c1 d1) : LegalCursor c (BitVec.ofNat 64 c1) := by
  intro entries he
  have hlen := hpos entries he
  rw [he, nextPrime, tableNext] at h
  have hc : c1 = (cur + 1) % entries.length := by
    split at h <;> (simp only [NextPrime.found.injEq] at h; exact h.2.1.symm)
  exact Nat.lt_of_le_of_lt (toNat_ofNat_le _) (hc ▸ Nat.mod_lt _ hlen)

theorem keyPhase_legal {c : Params} {cur d p q c2 d1 : Nat} {k : KeyMaterial}
    (hpos : ∀ entries, c.source = .table entries → 0 < entries.length)
    (h : keyPhase c.source cur d = .derived p q c2 k d1) : LegalCursor c (BitVec.ofNat 64 c2) := by
  unfold keyPhase at h
  split at h <;> try (simp at h)
  split at h <;> try (simp at h)
  rename_i hq
  split at h
  · simp only [KeyPhase.derived.injEq] at h
    exact h.2.2.1 ▸ nextPrime_legal hpos hq
  · simp at h

/-- A legal cursor is an index, so the table has an entry. -/
theorem cursorInv_pos {s : State} (h : CursorInv s) : ∀ entries, s.cfg.source = .table entries → 0 < entries.length :=
  fun entries he => Nat.lt_of_le_of_lt (Nat.zero_le _) (h entries he)

theorem Writes.commitKeyPhase {s : State} {p q c2 : Nat} {k : KeyMaterial} {d : Nat}
    (h : CursorInv s → LegalCursor s.cfg (BitVec.ofNat 64 c2)) : Writes F s (s.commitKeyPhase p q c2 k d) :=
  ((Writes.primes fun hs => .inl (h hs)).trans (Writes.key _ _)).trans (Writes.draws _ _)

/-! ### Completion -/

/-- Everything a command can lead to: its writes, then Success or an error, or the fatal completion, or it never completes. -/
inductive Completion (F : Prop) (s : State) : State → Prop where
  | finished {u : State} (e : ErrCode) (he : e ≠ .invalidArg) (hu : Writes F s u)
      (hd : e = .resource → s.cfg.debugEn = true → s.dbg + 1 ≤ u.dbg) : Completion F s (u.finish e)
  | locked {u : State} (ha : s.cfg.assertEn = true) (hu : Writes F s u) (hr : u.regs = s.regs) (hm : u.mem = s.mem) :
      Completion F s u.lock
  | hung {d : Nat} (ha : s.cfg.assertEn = false) : Completion F s ((s.setDraws d).setPhase (.busy .hung))

theorem Completion.checkFailed {s t : State} {d : Nat} {havoc : State → State}
    (hh : s.cfg.assertEn = false → ∀ u, Writes F s u → u.regs = s.regs → u.mem = s.mem → Writes F s (havoc u))
    (h : (s.setDraws d).checkFailed havoc = .next t) : Completion F s t := by
  rcases State.checkFailed_cases h with ⟨ha, rfl⟩ | ⟨ha, rfl | rfl⟩
  · exact .locked ha (Writes.draws s d) rfl rfl
  · exact .hung ha
  · exact .finished _ (by simp) (hh ha _ ((Writes.draws s d).trans (Writes.draws _ _)) rfl rfl) (by simp)

/-- The same, at the counter of free values as it stands. -/
theorem Completion.checkFailed' {s t : State} {havoc : State → State}
    (hh : s.cfg.assertEn = false → ∀ u, Writes F s u → u.regs = s.regs → u.mem = s.mem → Writes F s (havoc u))
    (h : s.checkFailed havoc = .next t) : Completion F s t := Completion.checkFailed (d := s.draws) hh h

/-- When a command may leave a free value in PCUR: an unconstrained KEYGEN or GENERATE (R142, R255, R285). -/
def FreesCursor (i : Instr) (s : State) : Prop := s.cfg.assertEn = false ∧ (i = .keygen ∨ i = .generate)

/-- Every command's completion is one of these. -/
theorem exec_completion {i : Instr} {s t : State} (h : exec i s = .next t) : Completion (FreesCursor i s) s t := by
  have hres0 : s.cfg.assertEn = false → ∀ u, Writes (FreesCursor i s) s u → u.regs = s.regs → u.mem = s.mem →
      Writes (FreesCursor i s) s u.havocRes0 :=
    fun _ u hu _ _ => hu.trans (Writes.havocRes0 u)
  cases i
  case gcd =>
    simp only [exec, execGcd] at h
    split at h
    · exact .checkFailed' hres0 h
    · split at h
      · exact .checkFailed' hres0 h
      · cases h; exact .finished _ (by simp) (Writes.res0 s _) (by simp)
  case mulmod =>
    simp only [exec, execMulmod, State.completeRes0] at h
    split at h
    · exact .checkFailed' hres0 h
    · cases h; exact .finished _ (by simp) ((Writes.res0 s _).trans (Writes.draws _ _)) (by simp)
  case powmod =>
    simp only [exec, execPowmod, State.completeRes0] at h
    split at h
    · exact .checkFailed' hres0 h
    · cases h; exact .finished _ (by simp) ((Writes.res0 s _).trans (Writes.draws _ _)) (by simp)
  case mrtest =>
    simp only [exec, execMrtest] at h
    split at h
    · exact .checkFailed' hres0 h
    · cases h; exact .finished _ (by simp) ((Writes.res0 s _).trans (Writes.draws _ _)) (by simp)
  case pnext =>
    simp only [exec, execPnext] at h
    split at h
    · rename_i hn
      cases h
      exact .finished _ (by simp) ((Writes.prime fun hs => nextPrime_legal (cursorInv_pos hs) hn).trans (Writes.draws _ _)) (by simp)
    · cases h; exact .finished _ (by simp) (Writes.draws s _) (by simp)
  case invmod =>
    simp only [exec, execInvmod] at h
    split at h
    · exact .checkFailed' hres0 h
    · split at h
      · exact .checkFailed' hres0 h
      · cases h; exact .finished _ (by simp) (Writes.res0 s _) (by simp)
  case keyderive =>
    simp only [exec, execKeyderive] at h
    split at h
    · cases h; exact .finished _ (by simp) (Writes.key s _) (by simp)
    · exact .checkFailed' (fun _ u hu _ _ => hu.trans (Writes.havocKey u)) h
  case keygen =>
    simp only [exec, execKeygen] at h
    split at h
    · rename_i hk
      cases h; exact .finished _ (by simp) (Writes.commitKeyPhase fun hs => keyPhase_legal (cursorInv_pos hs) hk) (by simp)
    · cases h; exact .finished _ (by simp) (Writes.draws s _) (by simp)
    · exact .checkFailed (fun ha u hu _ _ => hu.trans (Writes.havocKeyPhase ⟨ha, .inl rfl⟩ u)) h
  case encbyte =>
    simp only [exec, execEncbyte] at h
    split at h
    · exact .checkFailed' hres0 h
    · cases h; exact .finished _ (by simp) ((Writes.res0 s _).trans (Writes.draws _ _)) (by simp)
  case encbuf =>
    simp only [exec, execEncbuf] at h
    split at h
    · cases h; exact .finished _ (by simp) (Writes.notify s) (fun _ h => by simp [State.notifyResource_dbg h])
    · rename_i hle
      split at h
      · exact .checkFailed' (fun _ u hu _ _ => hu.trans (Writes.havocCt (by rw [hu.cfg]; omega))) h
      · cases h
        exact .finished _ (by simp) (Writes.ofCt (State.encryptUnits_frame _ _ _ _) (by omega)) (by simp)
  case generate =>
    simp only [exec, execGenerate] at h
    split at h
    · exact .checkFailed' (fun ha u hu _ _ => hu.trans (Writes.havocGenerate ⟨ha, .inr rfl⟩ u)) h
    · split at h
      · rename_i hk
        cases h
        have hw := fun p q k d => Writes.commitKeyPhase (F := FreesCursor .generate s) (s := s) (p := p) (q := q) (k := k) (d := d)
          fun hs => keyPhase_legal (cursorInv_pos hs) hk
        unfold State.cipherPhase
        split
        · exact .finished _ (by simp) ((hw _ _ _ _).trans (Writes.notify _))
            (fun _ h => Nat.le_of_eq (State.notifyResource_dbg (s := s.commitKeyPhase _ _ _ _ _) h).symm)
        · exact .finished _ (by simp) ((hw _ _ _ _).trans (Writes.ofCt (State.encryptUnits_frame _ _ _ _) (by omega))) (by simp)
      · cases h; exact .finished _ (by simp) (Writes.draws s _) (by simp)
      · exact .checkFailed (fun ha u hu _ _ => hu.trans (Writes.havocGenerate ⟨ha, .inr rfl⟩ u)) h

/-- Every command keeps a legal cursor legal, but for an unconstrained KEYGEN or GENERATE. -/
theorem exec_cursor {i : Instr} {s t : State} (h : exec i s = .next t) (hs : CursorInv s) :
    CursorInv t ∨ FreesCursor i s := by
  cases exec_completion h with
  | finished e he hu => exact hu.cursor hs
  | locked ha hu => exact hu.cursor hs
  | hung ha => exact .inl hs

/-- Every command always answers a next state. -/
theorem exec_next (i : Instr) (s : State) : ∃ t, exec i s = .next t := by
  cases i <;> simp only [exec, execGcd, execMulmod, execPowmod, execMrtest, execPnext, execInvmod, execKeyderive, execKeygen,
    execEncbyte, execEncbuf, execGenerate] <;> (repeat' split) <;> exact ⟨_, rfl⟩

end Sys2Proof.Machine
end

