-- ==== Sys2Proof/Laws/PerInstr.lean ====
section
/-! SUPPORT. A fact about every command as it is encoded, one lemma per constructor: 30_encoding.md R100, R102. -/

namespace Sys2Proof.Laws.OpcodeRange

/-- RSVD is 0 and OP is one of 0x01 … 0x0B. -/
def Statement (i : Instr) : Prop :=
  rsvdField (encode i) = 0 ∧ opField (encode i) = opcode i ∧ 1 ≤ (opcode i).toNat ∧ (opcode i).toNat ≤ 11

theorem gcd : Statement .gcd := by unfold Statement; decide
theorem mulmod : Statement .mulmod := by unfold Statement; decide
theorem powmod : Statement .powmod := by unfold Statement; decide
theorem mrtest : Statement .mrtest := by unfold Statement; decide
theorem pnext : Statement .pnext := by unfold Statement; decide
theorem invmod : Statement .invmod := by unfold Statement; decide
theorem keyderive : Statement .keyderive := by unfold Statement; decide
theorem keygen : Statement .keygen := by unfold Statement; decide
theorem encbyte : Statement .encbyte := by unfold Statement; decide
theorem encbuf : Statement .encbuf := by unfold Statement; decide
theorem generate : Statement .generate := by unfold Statement; decide

end Sys2Proof.Laws.OpcodeRange
end

