-- ==== Sys2Proof/Tests/Slice0.lean ====
section
/-! SUPPORT. The model's own tests: decoding, ill-formed terms, one step of each command (expected values from spec/95_test_vectors.md),
the port, and for every statement with hypotheses a witness that meets them, at the boundaries of each clause. -/

namespace Sys2Proof.Tests

open Machine Claims

/-! ### Decoding: words written out bit by bit from 30_encoding.md R100, R102: RSVD (56 bits) then OP (8 bits) -/

theorem test_decode_gcd : decode (0#56 ++ 0b00000001#8) = .command .gcd := by decide
theorem test_decode_mulmod : decode (0#56 ++ 0b00000010#8) = .command .mulmod := by decide
theorem test_decode_powmod : decode (0#56 ++ 0b00000011#8) = .command .powmod := by decide
theorem test_decode_mrtest : decode (0#56 ++ 0b00000100#8) = .command .mrtest := by decide
theorem test_decode_pnext : decode (0#56 ++ 0b00000101#8) = .command .pnext := by decide
theorem test_decode_invmod : decode (0#56 ++ 0b00000110#8) = .command .invmod := by decide
theorem test_decode_keyderive : decode (0#56 ++ 0b00000111#8) = .command .keyderive := by decide
theorem test_decode_keygen : decode (0#56 ++ 0b00001000#8) = .command .keygen := by decide
theorem test_decode_encbyte : decode (0#56 ++ 0b00001001#8) = .command .encbyte := by decide
theorem test_decode_encbuf : decode (0#56 ++ 0b00001010#8) = .command .encbuf := by decide
theorem test_decode_generate : decode (0#56 ++ 0b00001011#8) = .command .generate := by decide
/-- 95_test_vectors.md 2.12: the illegal words. -/
theorem test_decode_illegal :
    decode 0x0 = .illegal (.unassignedOp 0) ∧ decode 0xC = .illegal (.unassignedOp 0x0C) ∧
      decode 0xFF = .illegal (.unassignedOp 0xFF) ∧ decode 0x101 = .illegal .reservedBits ∧
      decode 0x8000000000000003 = .illegal .reservedBits := by decide
theorem test_decodeTableWord :
    decodeTableWord 64 0x0B = some .generate ∧ decodeTableWord 8 0x01 = some .gcd ∧ decodeTableWord 64 0x101 = none := by decide

/-! ### WellFormed refuses each ill-formed term -/

theorem test_wf_word_reserved : cmdWordWellFormed 0x101 = false := by decide
theorem test_wf_word_top : cmdWordWellFormed 0x8000000000000003 = false := by decide
theorem test_wf_word_op_zero : cmdWordWellFormed 0x0 = false := by decide
theorem test_wf_word_op_twelve : cmdWordWellFormed 0xC = false := by decide
theorem test_wf_word_legal : cmdWordWellFormed 0x1 = true ∧ cmdWordWellFormed 0xB = true := by decide

/-- 95_test_vectors.md 2.5: the example table. -/
def tableCfg : Params :=
  { assertEn := true, debugEn := false, source := .table [61, 53, 47], bufCap := 4, fatalCode := 1 }

/-- SEARCH mode with a small buffer. -/
def searchCfg : Params := { tableCfg with source := .search 101 }

theorem test_wf_cfg : tableCfg.wellFormed = true ∧ searchCfg.wellFormed = true ∧ Config.reference.wellFormed = true := by decide
theorem test_wf_bufCap_zero : Params.wellFormed { tableCfg with bufCap := 0 } = false := by decide
theorem test_wf_bufCap_large : Params.wellFormed { tableCfg with bufCap := 65537 } = false := by decide
theorem test_wf_fatalCode_zero : Params.wellFormed { tableCfg with fatalCode := 0 } = false := by decide
theorem test_wf_table_short : (PrimeSource.table [61]).wellFormed = false := by decide
theorem test_wf_table_zero : (PrimeSource.table [61, 0]).wellFormed = false := by decide
theorem test_wf_table_composite : (PrimeSource.table [61, 49]).wellFormed = false := by decide
theorem test_wf_table_repeat : (PrimeSource.table [61, 53, 61]).wellFormed = false := by decide
theorem test_wf_seed_even : (PrimeSource.search 100).wellFormed = false := by decide
theorem test_wf_seed_one : (PrimeSource.search 1).wellFormed = false := by decide
theorem test_wf_seed_large : (PrimeSource.search 0x8000000000000001).wellFormed = false := by decide
theorem test_wf_bus_size : (Transaction.read 0x18 4).wellFormed = false := by decide
theorem test_wf_bus_misaligned : (Transaction.read 0x1C 8).wellFormed = false := by decide
theorem test_wf_bus_strobes : (Transaction.write 0x28 8 0x7F 1).wellFormed = false := by decide

/-! ### One step of each command -/

/-- An idle unit with the given data registers. -/
def idle (c : Params) (f : Regs → Regs) : State := { State.powerOn c with regs := f (State.powerOn c).regs }

/-- The same with command i just accepted. -/
def running (i : Instr) (s : State) : State := s.accept (encode i)

/-- STATUS and the registers asked for, after one step. -/
def outcome (o : Host.Outcome State Fault Refusal) (get : State → List Word) : Option (Nat × List Nat) :=
  match o with
  | .next t => some (t.statusWord.toNat, (get t).map BitVec.toNat)
  | .fault _ => none
  | .refused _ => none

/-- One step with command i running. -/
def stepOf (i : Instr) (c : Params) (f : Regs → Regs) (get : State → List Word) : Option (Nat × List Nat) :=
  outcome (step (running i (idle c f))) get

def getRes0 (s : State) : List Word := [s.regs.res0]
def getPrimeRegs (s : State) : List Word := [s.regs.res0, s.regs.pcur]
def getKeyRegs (s : State) : List Word := [s.regs.keyN, s.regs.keyPhi, s.regs.keyE, s.regs.keyD]
def getKeyPhase (s : State) : List Word := [s.regs.res0, s.regs.res1, s.regs.pcur] ++ getKeyRegs s

/-- "Hi!" in the message buffer and L = 3, by host writes. -/
def withMessage (s : State) : State := (s.transact (wr 0x10000 0x216948)).transact (wr 0x78 3)

/-- The first three ciphertext units. -/
def getCt (s : State) : List Word := [s.ctUnit 0, s.ctUnit 1, s.ctUnit 2]

/-- 95 2.1, the Lamé worst case. -/
theorem test_gcd :
    stepOf .gcd searchCfg (fun r => { r with opa := 12200160415121876738, opb := 7540113804746346429 }) getRes0 =
      some (0x10002, [1]) := by decide
/-- 95 2.1 and P5: fatal. -/
theorem test_gcd_fatal :
    stepOf .gcd searchCfg (fun r => { r with opa := 0, opb := 5, res0 := 9 }) getRes0 = some (0x10116, [9]) := by decide
/-- 95 2.2. -/
theorem test_mulmod :
    stepOf .mulmod searchCfg (fun r => { r with opa := -1, opb := -1, opc := 0x4000000000000001 }) getRes0 =
      some (0x20002, [25]) := by decide
/-- 95 2.2. -/
theorem test_mulmod_modulus_zero :
    stepOf .mulmod searchCfg (fun r => { r with opa := 7, opb := 8 }) getRes0 = some (0x20116, [0]) := by decide
/-- 95 2.3. -/
theorem test_powmod :
    stepOf .powmod searchCfg (fun r => { r with opa := 2, opb := 62, opc := 0x7FFFFFFFFFFFFFFF }) getRes0 =
      some (0x30002, [4611686018427387904]) := by decide
/-- 95 2.3: 1 by convention, whatever the modulus. -/
theorem test_powmod_exponent_zero :
    stepOf .powmod searchCfg (fun r => { r with opa := 5, opb := 0, opc := -1 }) getRes0 = some (0x30002, [1]) := by decide
/-- 95 2.4: passes 2, 3, 5 and 7, fails 11. -/
theorem test_mrtest : stepOf .mrtest searchCfg (fun r => { r with opa := 3215031751 }) getRes0 = some (0x40002, [0]) := by decide
/-- 95 2.4: 221 fails after one squaring; 97 passes after three. -/
theorem test_mrtest_squaring :
    stepOf .mrtest searchCfg (fun r => { r with opa := 221 }) getRes0 = some (0x40002, [0]) ∧
      stepOf .mrtest searchCfg (fun r => { r with opa := 97 }) getRes0 = some (0x40002, [1]) := by decide
/-- 95 2.5. -/
theorem test_pnext_search :
    stepOf .pnext searchCfg (fun r => { r with pcur := 100 }) getPrimeRegs = some (0x50002, [97, 96]) ∧
      stepOf .pnext searchCfg (fun r => { r with pcur := 1, res0 := 2 }) getPrimeRegs = some (0x50042, [2, 1]) := by decide
/-- 95 2.5: the cursor wraps. -/
theorem test_pnext_table :
    stepOf .pnext tableCfg (fun r => { r with pcur := 2 }) getPrimeRegs = some (0x50002, [47, 0]) := by decide
/-- A TABLE-mode cursor that is no index (log 9): the run goes on, and the cursor is an index again, by R221's formula. -/
theorem test_pnext_outside_table :
    stepOf .pnext tableCfg (fun r => { r with pcur := 4 }) (fun s => [s.regs.pcur]) = some (0x50002, [2]) := by decide
/-- 95 2.6. -/
theorem test_invmod :
    stepOf .invmod searchCfg (fun r => { r with opa := 65537, opc := 0x4000000000000000 }) getRes0 =
      some (0x60002, [4611404547745579009]) := by decide
/-- 95 2.6: gcd 6. -/
theorem test_invmod_not_coprime :
    stepOf .invmod searchCfg (fun r => { r with opa := 6, opc := 3120 }) getRes0 = some (0x60116, [0]) := by decide
/-- 95 2.7. -/
theorem test_keyderive :
    stepOf .keyderive searchCfg (fun r => { r with opa := 61, opb := 53 }) getKeyRegs =
      some (0x70002, [3233, 3120, 7, 1783]) := by decide
/-- 95 2.7: p·q does not fit; φ = 2. -/
theorem test_keyderive_invalid :
    stepOf .keyderive searchCfg (fun r => { r with opa := 4294967311, opb := 4294967357 }) getKeyRegs =
        some (0x70116, [0, 0, 0, 0]) ∧
      stepOf .keyderive searchCfg (fun r => { r with opa := 2, opb := 3 }) getKeyRegs = some (0x70116, [0, 0, 0, 0]) := by decide
/-- 95 2.8. -/
theorem test_keygen_search :
    stepOf .keygen searchCfg id getKeyPhase = some (0x80002, [101, 97, 96, 9797, 9600, 7, 2743]) ∧
      stepOf .keygen searchCfg (fun r => { r with pcur := 2 }) getKeyPhase = some (0x80042, [0, 0, 2, 0, 0, 0, 0]) := by decide
/-- 95 2.8: the table wraps. -/
theorem test_keygen_table :
    stepOf .keygen tableCfg (fun r => { r with pcur := 2 }) getKeyPhase = some (0x80002, [47, 61, 1, 2867, 2760, 7, 1183]) := by decide
/-- 95 2.9: only byte 0x41 is used. -/
theorem test_encbyte :
    stepOf .encbyte searchCfg (fun r => { r with opa := 0x141, keyN := 3233, keyE := 7 }) getRes0 = some (0x90002, [1317]) := by decide
/-- 95 2.9. -/
theorem test_encbyte_no_key : stepOf .encbyte searchCfg (fun r => { r with opa := 65 }) getRes0 = some (0x90116, [0]) := by decide
/-- 95 2.10. -/
theorem test_encbuf :
    outcome (step (running .encbuf (withMessage (idle searchCfg fun r => { r with keyN := 3233, keyE := 7 })))) getCt =
      some (0xA0002, [1087, 3020, 2417]) := by decide
/-- 95 2.10: the resource check comes before the key check. -/
theorem test_encbuf_resource : stepOf .encbuf searchCfg (fun r => { r with msgLen := 5 }) getRes0 = some (0xA0022, [0]) := by decide
/-- 95 2.11. -/
theorem test_generate :
    outcome (step (running .generate (withMessage (idle tableCfg id)))) (fun t => getKeyPhase t ++ getCt t) =
      some (0xB0002, [61, 53, 2, 3233, 3120, 7, 1783, 1087, 3020, 2417]) := by decide
/-- 95 2.11 and P6: the key phase is committed, ERR = 2. -/
theorem test_generate_resource :
    stepOf .generate searchCfg (fun r => { r with msgLen := 5 }) getKeyPhase =
      some (0xB0022, [101, 97, 96, 9797, 9600, 7, 2743]) := by decide
/-- 95 P7: an illegal word. -/
theorem test_illegal_word : outcome (step (State.reset.accept 0xC)) getRes0 = some (0xC0032, [0]) := by decide
/-- The first step after reset runs the word placed. -/
theorem test_withFetchWord :
    outcome (step ((idle searchCfg fun r => { r with opa := 48, opb := 18 }).withFetchWord 64 0x01)) getRes0 =
      some (0x10002, [6]) := by decide
/-- A configuration outside R11 is refused. -/
theorem test_not_a_core : step (State.powerOn { tableCfg with bufCap := 0 }) = .refused .notAnRsa64Core := rfl

/-! ### The port (95_test_vectors.md 2.13) -/

/-- The data of the response on the port. -/
def dataOf (s : State) : Option Word := s.port.bind BusResponse.data

theorem test_read_config :
    dataOf (State.reset.transact (rd 0x00)) = some 0x0105 ∧
      dataOf ((State.powerOn { tableCfg with assertEn := false, debugEn := true }).transact (rd 0x00)) = some 0x0102 := by decide
theorem test_read_caps :
    dataOf (State.reset.transact (rd 0x08)) = some 0x1000 ∧
      dataOf ((State.powerOn { tableCfg with bufCap := 16 }).transact (rd 0x08)) = some 0x0000000300000010 := by decide
theorem test_write_res0_ignored : (State.reset.transact (wr 0x40 5)).statusWord = 0x8 := by decide
/-- 95 P5: after the fatal GCD, a write is ignored, and the W1C write leaves FATAL, ERR and EXIT_CODE. -/
theorem test_locked_status :
    (((running .gcd State.reset).lock).transact (wr 0x28 7)).statusWord = 0x1011E ∧
      ((((running .gcd State.reset).lock).transact (wr 0x28 7)).transact (wr 0x18 (-1))).statusWord = 0x10114 := by decide
theorem test_write_irqEn : dataOf ((State.reset.transact (wr 0x20 0xFF)).transact (rd 0x20)) = some 0x3 := by decide
theorem test_past_msgbuf :
    ((State.powerOn { tableCfg with bufCap := 8 }).transact (wr 0x10008 1)).port = some { resp := .slverr, data := none } := by decide
/-- Byte 4 is discarded. -/
theorem test_message_hell :
    dataOf (((State.powerOn tableCfg).transact (wr 0x10000 0x0000006F6C6C6548)).transact (rd 0x10000)) = some 0x6C6C6548 := by decide
theorem test_write_opa_busy :
    ((running .gcd State.reset).transact (wr 0x28 1)).statusWord = 0x10009 ∧
      ((running .gcd State.reset).transact (wr 0x28 1)).regs.opa = 0 := by decide
theorem test_write_pcur :
    ((State.powerOn tableCfg).transact (wr 0x70 3)).statusWord = 0x8 ∧
      ((State.powerOn tableCfg).transact (wr 0x70 2)).regs.pcur = 2 := by decide

/-! ### Witnesses: states and operands that meet the hypotheses of each statement, clause by clause -/

/-- A configuration at the upper bound of BUF_CAP, with assertions off and diagnostics on. -/
def wideCfg : Params :=
  { assertEn := false, debugEn := true, source := .search 0x7FFFFFFFFFFFFFFF, bufCap := 65536, fatalCode := 255 }

theorem witness_EveryCommandHasExactlyOneWord : Instr.wellFormed .generate = true ∧ decode 0xB = .command .generate := by decide

theorem witness_AcceptingWriteStartsTheCommand :
    State.reset.phase = .idle ∧ decode 0xB = .command .generate ∧ decode 0xC = .illegal (.unassignedOp 0x0C) := by decide

theorem witness_StepRunsTheDecodedCommand_1 :
    (running .gcd State.reset).cfg.wellFormed = true ∧ (running .gcd State.reset).phase = .busy (.command .gcd) ∧
      (running .gcd State.reset).inputs.head? = none ∧
      ({ running .gcd State.reset with inputs := [.unit] } : State).inputs.head? = some .unit := by decide
theorem witness_StepRunsTheDecodedCommand_2 :
    State.reset.cfg.wellFormed = true ∧ State.reset.phase = .idle ∧ decode 0xB = .command .generate ∧
      ({ State.reset with inputs := [.bus (wr 0x00010 0xB), .unit] } : State).inputs = .bus (wr 0x00010 0xB) :: .unit :: [] := by
  decide
theorem witness_StepRunsTheDecodedCommand_3 :
    State.reset.cfg.wellFormed = true ∧ decodeTableWord 64 0x1 = some .gcd ∧ decodeTableWord 64 0xB = some .generate ∧
      State.reset.cfg.debugEn = false := by decide

theorem witness_StepTakesTheNextEvent :
    State.reset.cfg.wellFormed = true ∧ State.reset.phase = .idle ∧ State.reset.inputs.head? = none ∧
      State.reset.lock.phase = .locked ∧
      ({ State.reset with inputs := [.bus (rd 0)] } : State).inputs.head? = some (.bus (rd 0)) ∧
      ({ State.reset with inputs := [.reset] } : State).inputs.head? = some .reset ∧
      ({ State.reset with inputs := [.unit] } : State).inputs.head? = some .unit := by decide

theorem witness_IllegalWordCompletesWithCodeThree :
    (State.reset.accept 0xC).cfg.wellFormed = true ∧ (State.reset.accept 0xC).phase = .busy .illegal ∧
      (State.reset.accept 0xC).inputs.head? = none := by decide

/-- A hung command and one event. -/
def hungThen (e : Input) : State := { State.reset with phase := .busy .hung, inputs := [e] }

theorem witness_HungCommandStaysBusyUntilReset :
    (hungThen .reset).phase = .busy .hung ∧ step (hungThen .reset) = .next (hungThen .reset).begin.applyReset ∧
      step (hungThen .unit) = .next (hungThen .unit).begin ∧
      step (hungThen (.bus (wr 0x10 1))) = .next ((hungThen (.bus (wr 0x10 1))).begin.transact (wr 0x10 1)) :=
  ⟨rfl, rfl, rfl, rfl⟩

/-- A running GCD in SEARCH mode. -/
def runningGcd : State := running .gcd (idle searchCfg fun r => { r with opa := 48, opb := 18 })

theorem runningGcd_inv : Inv runningGcd where
  config := by decide
  memory := ⟨List.Pairwise.nil, fun _ h => absurd h (List.not_mem_nil)⟩
  cursor := fun _ _ h => PrimeSource.noConfusion h
  status := ⟨by decide, by decide, by decide, by decide, fun i h => by
    have hi : runningGcd.phase = .busy (.command .gcd) := by decide
    rw [hi] at h; cases h; decide⟩

theorem runningGcd_step :
    step runningGcd = .next (((runningGcd.begin).setRes0 6).finish .none) := rfl

theorem witness_QuietHostSeesCompletion :
    runningGcd.cfg.wellFormed = true ∧ runningGcd.cfg.assertEn = true ∧ runningGcd.phase = .busy (.command .gcd) ∧
      runningGcd.inputs = [] := by decide

theorem witness_EveryStepAnswersAState : runningGcd.cfg.wellFormed = true := by decide

theorem witness_OnlyLegalConfigurationsRun :
    ¬LegalConfiguration (State.powerOn { tableCfg with source := .table [61, 49] }).cfg :=
  fun h => absurd ((h.table _ rfl).2.2.1 49 (by decide)) (by decide)

theorem witness_ResetMeetsTheInvariant :
    tableCfg.wellFormed = true ∧ wideCfg.wellFormed = true ∧
      Params.wellFormed { searchCfg with source := .search 3, bufCap := 1 } = true ∧
      Params.wellFormed { tableCfg with source := .table [2, 3] } = true := by decide

theorem witness_EveryStepKeepsTheInvariant :
    Inv runningGcd ∧ step runningGcd = .next (((runningGcd.begin).setRes0 6).finish .none) :=
  ⟨runningGcd_inv, runningGcd_step⟩

/-- KEYGEN running in TABLE mode at the last index, and the same with assertions off. -/
def runningKeygen (a : Bool) : State := running .keygen (idle { tableCfg with assertEn := a } fun r => { r with pcur := 2 })

theorem runningKeygen_index (a : Bool) : IsIndex (runningKeygen a).cfg.source (runningKeygen a).regs.pcur.toNat :=
  fun _ h => by cases h; revert a; decide

theorem witness_CursorStaysAnIndexUnlessUnconstrained :
    ((runningKeygen true).cfg.wellFormed = true ∧ IsIndex (runningKeygen true).cfg.source (runningKeygen true).regs.pcur.toNat ∧
        ∃ t, step (runningKeygen true) = .next t) ∧
      ((runningKeygen false).cfg.assertEn = false ∧ (runningKeygen false).phase = .busy (.command .keygen) ∧
        (runningKeygen false).inputs.head? = none) :=
  ⟨⟨by decide, runningKeygen_index true, _, rfl⟩, by decide, by decide, by decide⟩

theorem witness_FatalIsStickyUntilReset :
    exec .gcd State.reset = .next State.reset.lock ∧ State.reset.lock.isFatal = true ∧
      (State.reset.lock.status.err = .invalidArg ∧ State.reset.status.err = .none) ∧ State.reset.lock.phase = .locked ∧
      step State.reset.lock = .next State.reset.lock.begin ∧
      step { State.reset.lock with inputs := [.reset] } = .next State.reset.lock.applyReset :=
  ⟨rfl, rfl, ⟨rfl, rfl⟩, rfl, rfl, rfl⟩

theorem witness_NoFatalWithoutEnforcement :
    (idle wideCfg id).cfg.assertEn = false ∧ (idle wideCfg id).isFatal = false ∧
      step (running .gcd (idle wideCfg id)) =
        .next ((running .gcd (idle wideCfg id)).begin.unconstrained State.havocRes0) := ⟨rfl, rfl, rfl⟩

theorem witness_FailedCommandWritesNothing :
    exec .gcd State.reset = .next State.reset.lock ∧ State.reset.lock.isBusy = false ∧
      State.reset.lock.status.err = .invalidArg ∧
      exec .pnext (idle searchCfg fun r => { r with pcur := 1 }) =
        .next ((idle searchCfg fun r => { r with pcur := 1 }).finish .exhausted) ∧
      exec .encbuf (idle searchCfg fun r => { r with msgLen := 5 }) =
        .next ((idle searchCfg fun r => { r with msgLen := 5 }).finish .resource) := ⟨rfl, rfl, rfl, rfl, rfl⟩

theorem witness_HostOwnedStateSurvivesEveryCommand :
    State.reset.cfg.bufCap ≤ 65536 ∧ wideCfg.bufCap ≤ 65536 ∧ exec .gcd State.reset = .next State.reset.lock :=
  ⟨by decide, by decide, rfl⟩

theorem witness_AddressMapIsTheWindow :
    tableCfg.bufCap ≤ 65536 ∧ wideCfg.bufCap ≤ 65536 ∧ 0 < (tableCfg.bufCap + 7) / 8 ∧ 8191 < (wideCfg.bufCap + 7) / 8 ∧
      targetAt wideCfg (0x10000 + 8 * 8191) = some (.msg 8191) ∧ targetAt wideCfg 0xFFFF8 = some (.ct 65535) ∧
      targetAt tableCfg 0x10000 = some (.msg 0) ∧ targetAt tableCfg 0x10008 = none ∧ targetAt tableCfg 0x7FFF8 = none ∧
      targetAt tableCfg 0x80018 = some (.ct 3) ∧ targetAt tableCfg 0x80020 = none ∧ targetAt tableCfg 0x80 = none ∧
      targetAt tableCfg 0xFFF8 = none := by decide

theorem witness_RejectedTransactionHasNoEffect :
    (4 : Nat) ≠ 8 ∧ (0x1C#20).toNat % 8 ≠ 0 ∧ targetAt tableCfg (0x80#20).toNat = none ∧
      targetAt tableCfg (0xFFFF8#20).toNat = none ∧ (0x7F#8) ≠ 0xFF := by decide

theorem witness_BusyReadsOfResultsAreFree :
    runningGcd.isBusy = true ∧ runningGcd.cfg.bufCap ≤ 65536 ∧
      (0x00070#20) ∈ [0x00040#20, 0x00048, 0x00050, 0x00058, 0x00060, 0x00068, 0x00070] ∧
      (0x80000 ≤ (0x80018#20).toNat ∧ (0x80018#20).toNat < 0x80000 + 8 * runningGcd.cfg.bufCap ∧
        (0x80018#20).toNat % 8 = 0) := by decide

theorem witness_ReadsReturnTheCurrentValue :
    State.reset.isBusy = false ∧ State.reset.lock.isBusy = false ∧ 4095 < State.reset.cfg.bufCap ∧
      511 < (State.reset.cfg.bufCap + 7) / 8 ∧ State.reset.cfg.bufCap ≤ 65536 := by decide

theorem witness_IdleWriteStoresTheWord : State.reset.phase = .idle := by decide

theorem witness_CursorWriteStoresOnlyLegalIndices :
    (State.powerOn tableCfg).phase = .idle ∧ (State.powerOn searchCfg).cfg.source = .search 101 ∧
      (State.powerOn tableCfg).cfg.source = .table [61, 53, 47] ∧ (2 : Word).toNat < [61#64, 53, 47].length ∧
      [61#64, 53, 47].length ≤ (3 : Word).toNat := by decide

theorem witness_IgnoredWriteOnlySetsWerr :
    (wr 0x00000 1).target tableCfg = some .config ∧ (wr 0x00048 1).target tableCfg = some .res1 ∧
      (wr 0x80018 1).target tableCfg = some (.ct 3) ∧ runningGcd.phase ≠ .idle ∧
      (wr 0x00010 1).target runningGcd.cfg = some .cmd ∧ (wr 0x00070 3).target tableCfg = some .pcur ∧
      tableCfg.source = .table [61, 53, 47] ∧ [61#64, 53, 47].length ≤ (3 : Word).toNat := by decide

theorem witness_StatusWordHasItsLayout :
    State.reset.status.err = .none ∧ State.reset.lock.status.err = .invalidArg ∧
      (State.reset.finish .resource).status.err = .resource ∧ (State.reset.finish .illegalCmd).status.err = .illegalCmd ∧
      (State.reset.finish .exhausted).status.err = .exhausted := by decide

theorem witness_ConfigAndCapsAreHardwired :
    (wideCfg.wellFormed = true ∧ wideCfg.source = .search 0x7FFFFFFFFFFFFFFF) ∧
      tableCfg.wellFormed = true ∧ tableCfg.source = .table [61, 53, 47] := by decide

theorem witness_MessageWordsPackLittleEndian :
    tableCfg.bufCap ≤ 65536 ∧ 0 < (tableCfg.bufCap + 7) / 8 ∧ (State.powerOn tableCfg).phase = .idle ∧
      8 * 0 + 3 < tableCfg.bufCap ∧ ¬8 * 0 + 4 < tableCfg.bufCap ∧ 8191 < (wideCfg.bufCap + 7) / 8 := by decide

theorem witness_HostCannotReachARunningCommand :
    runningGcd.isBusy = true ∧ (runningGcd.transact (wr 0x28 1)).draws = runningGcd.draws ∧
      exec .gcd runningGcd = .next ((runningGcd.setRes0 6).finish .none) ∧
      exec .gcd (runningGcd.transact (wr 0x28 1)) =
        .next (((runningGcd.transact (wr 0x28 1)).setRes0 6).finish .none) := ⟨by decide, by decide, rfl, rfl⟩

theorem witness_ResetForgetsTheBuffers :
    (hungThen .reset).cfg.wellFormed = true ∧ (hungThen .reset).inputs.head? = some .reset := by decide

theorem witness_ResetLeavesTheResetValues :
    (hungThen .reset).cfg.wellFormed = true ∧ (hungThen .reset).inputs.head? = some .reset ∧
      (State.powerOn tableCfg).cfg.source = .table [61, 53, 47] ∧ (State.powerOn searchCfg).cfg.source = .search 101 := by decide

/-- ENCBUF with a message too long, with diagnostics on. -/
def runningTooLong : State := running .encbuf (idle { searchCfg with debugEn := true } fun r => { r with msgLen := 5 })

theorem witness_ResourceErrorNotifiesTheDiagnostics :
    State.reset.cfg.debugEn = false ∧ step State.reset = .next State.reset ∧
      runningTooLong.phase = .busy (.command .encbuf) ∧ runningTooLong.status.err = .none ∧
      runningTooLong.cfg.debugEn = true ∧ step runningTooLong = .next (runningTooLong.begin.raise .resource) ∧
      (runningTooLong.begin.raise .resource).status.err = .resource := ⟨rfl, rfl, rfl, rfl, rfl, rfl, rfl⟩

theorem witness_GcdWritesTheGreatestCommonDivisor :
    runningGcd.regs.opa.toNat ≠ 0 ∧ runningGcd.regs.opb.toNat ≠ 0 ∧ State.reset.regs.opa.toNat = 0 := by decide

/-- Registers with the given operands. -/
def operands (a b c : Word) : State := idle searchCfg fun r => { r with opa := a, opb := b, opc := c }

theorem witness_MulmodWritesTheExactProduct :
    (1 ≤ (operands 3 4 1).regs.opc.toNat ∧ (operands 3 4 1).regs.opc.toNat ≤ 2 ^ 63 - 1) ∧
      (1 ≤ (operands (-1) (-1) 0x7FFFFFFFFFFFFFFF).regs.opc.toNat ∧
        (operands (-1) (-1) 0x7FFFFFFFFFFFFFFF).regs.opc.toNat ≤ 2 ^ 63 - 1) ∧
      2 ^ 63 ≤ (operands 3 4 0x8000000000000000).regs.opc.toNat ∧ (operands 3 4 0).regs.opc.toNat = 0 := by decide

theorem witness_DoublingMultiplierIsExact :
    1 ≤ (1 : Word).toNat ∧ 1 ≤ (0x7FFFFFFFFFFFFFFF : Word).toNat ∧ (0x7FFFFFFFFFFFFFFF : Word).toNat ≤ 2 ^ 63 - 1 := by decide

theorem witness_PowmodWritesTheExactPower :
    ((operands 5 0 (-1)).regs.opb.toNat = 0 ∧ (operands 5 0 (-1)).regs.opc.toNat ≠ 0) ∧
      ((operands 7 1 1).regs.opb.toNat ≠ 0 ∧ 1 ≤ (operands 7 1 1).regs.opc.toNat ∧
        (operands 7 1 1).regs.opc.toNat ≤ 2 ^ 63 - 1) ∧
      ((operands 7 1 0x8000000000000000).regs.opb.toNat ≠ 0 ∧
        2 ^ 63 ≤ (operands 7 1 0x8000000000000000).regs.opc.toNat) ∧
      (operands 7 0 0).regs.opc.toNat = 0 := by decide

theorem accepted_two : Accepted 2 := .inl rfl

theorem strong_of_bounds {n a k : Nat} (hn : n - 1 < 2 ^ k) (hpos : 0 < n - 1)
    (h : ∀ s < k, ∀ t < n, n - 1 = 2 ^ s * t → t % 2 = 1 → a ^ t % n = 1 ∨ ∃ r < s, a ^ (2 ^ r * t) % n = n - 1) :
    StrongProbablePrime n a := by
  intro s t he ho
  have hs : 2 ^ s ≤ n - 1 := Nat.le_of_dvd hpos ⟨t, he⟩
  have ht : t ≤ n - 1 := Nat.le_of_dvd hpos ⟨2 ^ s, by rw [he, Nat.mul_comm]⟩
  exact h s ((Nat.pow_lt_pow_iff_right (by omega)).mp (Nat.lt_of_le_of_lt hs hn)) t (by omega) he ho

theorem accepted_three : Accepted 3 := by
  refine .inr ⟨rfl, fun a ha hlt => ?_⟩
  have h2 : a = 2 := by revert hlt; revert a; decide
  subst h2
  refine strong_of_bounds (k := 2) (by decide) (by decide) fun s hs t ht he _ => ?_
  interval_cases s <;> interval_cases t <;> first
    | exact absurd he (by decide)
    | exact absurd ‹_ % 2 = 1› (by decide)
    | exact .inr ⟨0, by decide, by decide⟩

theorem accepted_five : Accepted 5 := by
  refine .inr ⟨rfl, fun a ha hlt => ?_⟩
  have h2 : a = 2 ∨ a = 3 := by revert hlt; revert a; decide
  rcases h2 with rfl | rfl <;>
  · refine strong_of_bounds (k := 3) (by decide) (by decide) fun s hs t ht he _ => ?_
    interval_cases s <;> interval_cases t <;> first
      | exact absurd he (by decide)
      | exact absurd ‹_ % 2 = 1› (by decide)
      | exact .inr ⟨1, by decide, by decide⟩

theorem not_accepted_four : ¬Accepted 4 := by rintro (h | ⟨h, -⟩) <;> omega

theorem witness_MrtestWritesTheVerdict :
    (2 ≤ (operands 5 0 0).regs.opa.toNat ∧ (operands 5 0 0).regs.opa.toNat < 2 ^ 63 ∧
        Accepted (operands 5 0 0).regs.opa.toNat) ∧
      (2 ≤ (operands 4 0 0).regs.opa.toNat ∧ (operands 4 0 0).regs.opa.toNat % 2 = 0 ∧
        ¬Accepted (operands 4 0 0).regs.opa.toNat) ∧
      (2 ^ 63 ≤ (operands (-1) 0 0).regs.opa.toNat ∧ (operands (-1) 0 0).regs.opa.toNat % 2 = 1) ∧
      (operands 1 0 0).regs.opa.toNat < 2 :=
  ⟨⟨by decide, by decide, accepted_five⟩, ⟨by decide, by decide, not_accepted_four⟩, by decide, by decide⟩

theorem witness_MrtestKeepsTheListedVerdicts :
    (operands 97 0 0).regs.opa.toNat ∈ [2, 3, 5, 7, 11, 13, 17, 19, 23, 29, 31, 97] ∧
      (operands 341 0 0).regs.opa.toNat ∈ [4, 6, 8, 9, 91, 221, 341] := by decide

theorem witness_MrtestAcceptsAComposite :
    (operands 3825123056546413051 0 0).regs.opa.toNat = 3825123056546413051 := by decide

theorem witness_EveryPrimeInRangePasses :
    (operands 97 0 0).regs.opa.toNat.Prime ∧ (operands 97 0 0).regs.opa.toNat < 2 ^ 63 :=
  ⟨by show Nat.Prime 97; norm_num, by decide⟩

/-- An idle unit with the cursor at c. -/
def cursorAt (cfg : Params) (c : Word) : State := idle cfg fun r => { r with pcur := c }

/-- Every cursor of SEARCH mode. -/
theorem search_index (c : Nat) : IsIndex searchCfg.source c := fun _ h => PrimeSource.noConfusion h
theorem table_index {c : Nat} (h : c < 3) : IsIndex tableCfg.source c := fun _ he => by cases he; exact h

theorem largest_five : LargestAccepted 5 5 := ⟨by decide, by decide, accepted_five, fun q h1 h2 => by omega⟩
theorem largest_three : LargestAccepted 4 3 :=
  ⟨by decide, by decide, accepted_three, fun q h1 h2 => by
    obtain rfl : q = 4 := by omega
    exact not_accepted_four⟩

/-- From a cursor of 2^63 or more two draws may be free: 2^63 + 3, then 2^63 + 1. -/
theorem next_high : NextPrimeIs searchCfg.source (cursorAt searchCfg 0x8000000000000003).regs.pcur.toNat (2 ^ 63 + 3) (2 ^ 63 + 2) :=
  ⟨rfl, by rw [if_neg (by decide)]; exact .inl (by decide)⟩
theorem next_high_again : NextPrimeIs searchCfg.source (2 ^ 63 + 2) (2 ^ 63 + 1) (2 ^ 63) :=
  ⟨rfl, by rw [if_neg (by decide)]; exact .inl (by decide)⟩
theorem rejects_high : ¬KdAccepts (2 ^ 63 + 3) (2 ^ 63 + 1) := fun h => absurd h.2.2.2.1 (by decide)
/-- At a TABLE-mode cursor that is no index: any value, and the cursor advanced by R221's formula (log 9). -/
theorem next_outside {p : Nat} (h : p < 2 ^ 64) : NextPrimeIs tableCfg.source (cursorAt tableCfg 4).regs.pcur.toNat p 2 :=
  ⟨rfl, h, fun w hw => absurd (show ([61#64, 53, 47])[4]? = some w from hw) (by simp)⟩
theorem next_entry {c : Nat} {w : Word} (h : [61#64, 53, 47][c]? = some w) :
    NextPrimeIs tableCfg.source c w.toNat ((c + 1) % 3) :=
  ⟨rfl, w.isLt, fun _ hv => congrArg BitVec.toNat (Option.some.inj (h.symm.trans hv))⟩

theorem witness_PnextWritesTheNextPrime :
    IsIndex searchCfg.source (cursorAt searchCfg 1).regs.pcur.toNat ∧
      Exhausted searchCfg.source (cursorAt searchCfg 1).regs.pcur.toNat ∧
      ¬Exhausted searchCfg.source (cursorAt searchCfg 2).regs.pcur.toNat ∧
      (¬Exhausted searchCfg.source (cursorAt searchCfg 0x8000000000000003).regs.pcur.toNat ∧
        NextPrimeIs searchCfg.source (cursorAt searchCfg 0x8000000000000003).regs.pcur.toNat (2 ^ 63 + 3) (2 ^ 63 + 2)) ∧
      IsIndex tableCfg.source (cursorAt tableCfg 2).regs.pcur.toNat ∧
      ¬Exhausted tableCfg.source (cursorAt tableCfg 2).regs.pcur.toNat :=
  ⟨search_index _, by show 1 < 2; decide, by show ¬2 < 2; decide, ⟨by show ¬2 ^ 63 + 3 < 2; decide, next_high⟩,
    table_index (by decide), id⟩

/-- The cursors 3 and 4 of a table of three; a first draw that KD accepts beside the entry 47, and one that it rejects. -/
theorem witness_CursorOutsideTheTableTakesAFreeEntry :
    ((cursorAt tableCfg 4).cfg.source = .table [61, 53, 47] ∧ [61#64, 53, 47].length ≤ (cursorAt tableCfg 4).regs.pcur.toNat) ∧
      ([61#64, 53, 47].length ≤ (cursorAt tableCfg 3).regs.pcur.toNat) ∧
      ¬Exhausted tableCfg.source (cursorAt tableCfg 4).regs.pcur.toNat ∧
      (NextPrimeIs tableCfg.source (cursorAt tableCfg 4).regs.pcur.toNat 6 2 ∧ NextPrimeIs tableCfg.source 2 47 0 ∧
        KdAccepts 6 47) ∧
      NextPrimeIs tableCfg.source (cursorAt tableCfg 4).regs.pcur.toNat 0 2 ∧ ¬KdAccepts 0 47 :=
  ⟨⟨rfl, by decide⟩, by decide, id,
    ⟨next_outside (by decide), next_entry (c := 2) rfl, by decide, by decide, by decide, by decide, by decide⟩,
    next_outside (by decide), fun h => h.1 rfl⟩

/-- The two states of successive PNEXT commands from 5. -/
def afterFive : State := (((cursorAt searchCfg 5).setPrime 5 4).setDraws 0).finish .none
def afterThree : State := ((afterFive.setPrime 3 2).setDraws 0).finish .none

theorem witness_SearchResultsStrictlyDecrease :
    (cursorAt searchCfg 5).cfg.source = .search 101 ∧ exec .pnext (cursorAt searchCfg 5) = .next afterFive ∧
      afterFive.status.err = .none ∧ afterFive.cfg.source = .search 101 ∧ exec .pnext afterFive = .next afterThree ∧
      afterThree.status.err = .none := ⟨rfl, rfl, rfl, rfl, rfl, rfl⟩

theorem witness_TableResultsCycle :
    (cursorAt tableCfg 2).cfg.wellFormed = true ∧ (cursorAt tableCfg 2).cfg.source = .table [61, 53, 47] ∧
      (cursorAt tableCfg 2).regs.pcur.toNat < [61#64, 53, 47].length := by decide

theorem witness_InvmodWritesTheInverse :
    (2 ≤ (operands 1 0 2).regs.opc.toNat ∧
        Nat.gcd ((operands 1 0 2).regs.opa.toNat % (operands 1 0 2).regs.opc.toNat) (operands 1 0 2).regs.opc.toNat = 1) ∧
      (operands 1 0 1).regs.opc.toNat < 2 ∧
      Nat.gcd ((operands 6 0 3120).regs.opa.toNat % (operands 6 0 3120).regs.opc.toNat)
        (operands 6 0 3120).regs.opc.toNat ≠ 1 := by decide

theorem witness_KeyderiveWritesTheKeyMaterial :
    KdAccepts (operands 2 5 0).regs.opa.toNat (operands 2 5 0).regs.opb.toNat ∧
      ¬KdAccepts (operands 2 3 0).regs.opa.toNat (operands 2 3 0).regs.opb.toNat := by
  constructor
  · exact ⟨by decide, by decide, by decide, by decide, by decide⟩
  · rintro ⟨-, -, -, -, h⟩
    exact absurd h (by decide)

theorem next_five : NextPrimeIs searchCfg.source (cursorAt searchCfg 5).regs.pcur.toNat 5 4 := ⟨rfl, largest_five⟩
theorem next_three : NextPrimeIs searchCfg.source 4 3 2 := ⟨rfl, largest_three⟩
theorem accepts_five_three : KdAccepts 5 3 := ⟨by decide, by decide, by decide, by decide, by decide⟩

theorem witness_KeygenFollowsItsSequence :
    Exhausted searchCfg.source (cursorAt searchCfg 1).regs.pcur.toNat ∧
      (¬Exhausted searchCfg.source (cursorAt searchCfg 5).regs.pcur.toNat ∧
        NextPrimeIs searchCfg.source (cursorAt searchCfg 5).regs.pcur.toNat 5 4 ∧ ¬Exhausted searchCfg.source 4 ∧
        NextPrimeIs searchCfg.source 4 3 2 ∧ KdAccepts 5 3) ∧
      (¬Exhausted searchCfg.source (cursorAt searchCfg 2).regs.pcur.toNat ∧
        NextPrimeIs searchCfg.source 2 2 1 ∧ Exhausted searchCfg.source 1) ∧
      (¬Exhausted searchCfg.source (cursorAt searchCfg 0x8000000000000003).regs.pcur.toNat ∧
        NextPrimeIs searchCfg.source (cursorAt searchCfg 0x8000000000000003).regs.pcur.toNat (2 ^ 63 + 3) (2 ^ 63 + 2) ∧
        ¬Exhausted searchCfg.source (2 ^ 63 + 2) ∧ NextPrimeIs searchCfg.source (2 ^ 63 + 2) (2 ^ 63 + 1) (2 ^ 63) ∧
        ¬KdAccepts (2 ^ 63 + 3) (2 ^ 63 + 1)) ∧
      IsIndex searchCfg.source (cursorAt searchCfg 5).regs.pcur.toNat ∧
      IsIndex tableCfg.source (cursorAt tableCfg 2).regs.pcur.toNat :=
  ⟨by show 1 < 2; decide,
    ⟨by show ¬5 < 2; decide, next_five, by show ¬4 < 2; decide, next_three, accepts_five_three⟩,
    ⟨by show ¬2 < 2; decide, ⟨rfl, ⟨by decide, by decide, accepted_two, fun q h1 h2 => by omega⟩⟩, by show 1 < 2; decide⟩,
    ⟨by show ¬2 ^ 63 + 3 < 2; decide, next_high, by show ¬2 ^ 63 + 2 < 2; decide, next_high_again, rejects_high⟩,
    search_index _, table_index (by decide)⟩

theorem witness_KeygenCompletes :
    IsIndex searchCfg.source (cursorAt searchCfg 5).regs.pcur.toNat ∧
      (∀ seed, (cursorAt searchCfg 5).cfg.source = .search seed → (cursorAt searchCfg 5).regs.pcur.toNat < 2 ^ 63) ∧
      NextPrimeIs searchCfg.source (cursorAt searchCfg 5).regs.pcur.toNat 5 4 ∧ NextPrimeIs searchCfg.source 4 3 2 ∧
      KdAccepts 5 3 := ⟨search_index _, fun _ _ => by decide, next_five, next_three, accepts_five_three⟩
/-- The same in TABLE mode, across the wrap (95 2.8). -/
theorem witness_KeygenCompletes_table :
    IsIndex tableCfg.source (cursorAt tableCfg 2).regs.pcur.toNat ∧
      (∀ seed, (cursorAt tableCfg 2).cfg.source = .search seed → (cursorAt tableCfg 2).regs.pcur.toNat < 2 ^ 63) ∧
      NextPrimeIs tableCfg.source (cursorAt tableCfg 2).regs.pcur.toNat 47 0 ∧ NextPrimeIs tableCfg.source 0 61 1 ∧
      KdAccepts 47 61 :=
  ⟨table_index (by decide), fun _ _ => by decide, next_entry (c := 2) rfl, next_entry (c := 0) rfl, by decide, by decide, by decide,
    by decide, by decide⟩

/-- The two states of successive PNEXT commands across the wrap of the table. -/
def afterWrap : State := (((cursorAt tableCfg 2).setPrime 47 0).setDraws 0).finish .none
def afterFirst : State := ((afterWrap.setPrime 61 1).setDraws 0).finish .none

theorem witness_ConsecutiveDrawsAreDistinct_1 :
    ((cursorAt searchCfg 5).cfg.wellFormed = true ∧ IsIndex searchCfg.source (cursorAt searchCfg 5).regs.pcur.toNat ∧
        exec .pnext (cursorAt searchCfg 5) = .next afterFive ∧ afterFive.status.err = .none ∧
        exec .pnext afterFive = .next afterThree ∧ afterThree.status.err = .none) ∧
      (cursorAt tableCfg 2).cfg.wellFormed = true ∧ IsIndex tableCfg.source (cursorAt tableCfg 2).regs.pcur.toNat ∧
        exec .pnext (cursorAt tableCfg 2) = .next afterWrap ∧ afterWrap.status.err = .none ∧
        exec .pnext afterWrap = .next afterFirst ∧ afterFirst.status.err = .none :=
  ⟨⟨by decide, search_index _, rfl, rfl, rfl, rfl⟩, by decide, table_index (by decide), rfl, rfl, rfl, rfl⟩
/-- KEYGEN across the wrap of the table (95 2.8). -/
theorem witness_ConsecutiveDrawsAreDistinct_2 :
    (cursorAt tableCfg 2).cfg.assertEn = true ∧
      exec .keygen (cursorAt tableCfg 2) =
        .next (((cursorAt tableCfg 2).commitKeyPhase 47 61 1 { n := 2867, phi := 2760, e := 7, d := 1183 } 0).finish .none) :=
  ⟨rfl, rfl⟩
/-- The draws 3, 2 from the cursor 3, the pair KD rejects. -/
theorem witness_ConsecutiveDrawsAreDistinct_3 :
    searchCfg.wellFormed = true ∧ IsIndex searchCfg.source 3 ∧ nextPrime searchCfg.source 3 0 = .found 3 2 0 ∧
      nextPrime searchCfg.source 2 0 = .found 2 1 0 ∧ ¬KdAccepts 3 2 :=
  ⟨by decide, search_index 3, rfl, rfl, fun h => absurd h.2.2.2.2 (by decide)⟩

/-- An idle unit with a host-written key and a length. -/
def keyed (n e l : Word) : State := idle tableCfg fun r => { r with keyN := n, keyE := e, msgLen := l }

theorem witness_EncbyteWritesTheUnit :
    ((keyed 0x7FFFFFFFFFFFFFFF 7 0).regs.keyN.toNat ≠ 0 ∧ (keyed 0x7FFFFFFFFFFFFFFF 7 0).regs.keyN.toNat ≤ 2 ^ 63 - 1) ∧
      ((keyed (-1) 0 0).regs.keyN.toNat ≠ 0 ∧ (keyed (-1) 0 0).regs.keyE.toNat = 0) ∧
      ((keyed 0x8000000000000000 3 0).regs.keyE.toNat ≠ 0 ∧ 2 ^ 63 ≤ (keyed 0x8000000000000000 3 0).regs.keyN.toNat) ∧
      (keyed 0 7 0).regs.keyN.toNat = 0 := by decide

/-- A key of 2^63 or more. -/
theorem witness_EncbufWritesTheUnits_high :
    ((keyed 0x8000000000000000 3 4).regs.msgLen.toNat ≤ tableCfg.bufCap ∧ (keyed 0x8000000000000000 3 4).regs.keyN.toNat ≠ 0 ∧
        2 ^ 63 ≤ (keyed 0x8000000000000000 3 4).regs.keyN.toNat ∧ (keyed 0x8000000000000000 3 4).regs.keyE.toNat ≠ 0) ∧
      (keyed (-1) 0 4).regs.msgLen.toNat ≤ tableCfg.bufCap ∧ 2 ^ 63 ≤ (keyed (-1) 0 4).regs.keyN.toNat ∧
        (keyed (-1) 0 4).regs.keyE.toNat = 0 := by decide

theorem witness_EncbufWritesTheUnits :
    tableCfg.bufCap ≤ 65536 ∧ tableCfg.bufCap < (keyed 0 7 5).regs.msgLen.toNat ∧
      (1 ≤ (keyed 0 7 1).regs.msgLen.toNat ∧ (keyed 0 7 1).regs.msgLen.toNat ≤ tableCfg.bufCap ∧
        (keyed 0 7 1).regs.keyN.toNat = 0) ∧
      ((keyed 0 0 0).regs.msgLen.toNat ≤ tableCfg.bufCap ∧ (keyed 0 0 0).regs.msgLen.toNat = 0) ∧
      ((keyed 3233 7 4).regs.msgLen.toNat ≤ tableCfg.bufCap ∧ (keyed 3233 7 4).regs.keyN.toNat ≠ 0 ∧
        (keyed 3233 7 4).regs.keyN.toNat ≤ 2 ^ 63 - 1) := by decide

/-- The message 7, 7, of length 2, under a key: under KEY_N = 10, KEY_E = 3 it is 95 2.10's. -/
def twice (n e : Word) : State :=
  (idle tableCfg fun r => { r with keyN := n, keyE := e, msgLen := 2 }).transact (wr 0x10000 0x0707)

theorem witness_EqualBytesGiveEqualUnits :
    (twice 10 3).cfg.bufCap ≤ 65536 ∧ (twice 10 3).regs.msgLen.toNat ≤ (twice 10 3).cfg.bufCap ∧
      1 ≤ (twice 10 3).regs.keyN.toNat ∧ (twice 10 3).regs.keyN.toNat ≤ 2 ^ 63 - 1 ∧ 0 < (twice 10 3).regs.msgLen.toNat ∧
      1 < (twice 10 3).regs.msgLen.toNat ∧ (twice 10 3).msgByte 0 = (twice 10 3).msgByte 1 ∧
      exec .encbuf (twice 10 3) = .next ((State.encryptUnits 3 10 2 (twice 10 3)).finish .none) :=
  ⟨by decide, by decide, by decide, by decide, by decide, by decide, by decide, rfl⟩
/-- KEY_E = 0 and KEY_N = 2^64 − 1. -/
theorem witness_EqualBytesGiveEqualUnits_exponent_zero :
    (twice (-1) 0).regs.keyE.toNat = 0 ∧ (twice (-1) 0).regs.keyN.toNat ≠ 0 ∧
      exec .encbuf (twice (-1) 0) = .next ((State.encryptUnits 0 (-1) 2 (twice (-1) 0)).finish .none) :=
  ⟨by decide, by decide, rfl⟩
/-- GENERATE of the same message from the table's entries 61, 53. -/
theorem witness_EqualBytesGiveEqualUnits_generate :
    nextPrime (twice 0 0).cfg.source (twice 0 0).regs.pcur.toNat (twice 0 0).draws = .found 61 1 0 ∧
      nextPrime (twice 0 0).cfg.source 1 0 = .found 53 2 0 ∧ KdAccepts 61 53 ∧ 61 * 53 ≤ 2 ^ 63 - 1 ∧
      (twice 0 0).msgByte 0 = (twice 0 0).msgByte 1 ∧ ∃ t, exec .generate (twice 0 0) = .next t :=
  ⟨rfl, rfl, ⟨by decide, by decide, by decide, by decide, by decide⟩, by decide, by decide, _, rfl⟩

/-- The cursor at c and a message of length l. -/
def generating (cfg : Params) (c l : Word) : State := idle cfg fun r => { r with pcur := c, msgLen := l }

theorem witness_GenerateFollowsItsSequence :
    searchCfg.bufCap ≤ 65536 ∧ (generating searchCfg 5 0).regs.msgLen.toNat = 0 ∧
      ((generating searchCfg 1 4).regs.msgLen.toNat ≠ 0 ∧
        Exhausted searchCfg.source (generating searchCfg 1 4).regs.pcur.toNat) ∧
      (¬Exhausted searchCfg.source (generating searchCfg 5 4).regs.pcur.toNat ∧
        NextPrimeIs searchCfg.source (generating searchCfg 5 4).regs.pcur.toNat 5 4 ∧ NextPrimeIs searchCfg.source 4 3 2 ∧
        KdAccepts 5 3 ∧ (generating searchCfg 5 4).regs.msgLen.toNat ≤ searchCfg.bufCap ∧ 5 * 3 ≤ 2 ^ 63 - 1) ∧
      searchCfg.bufCap < (generating searchCfg 5 5).regs.msgLen.toNat ∧
      ((generating searchCfg 0x8000000000000003 4).regs.msgLen.toNat ≠ 0 ∧
        NextPrimeIs searchCfg.source (generating searchCfg 0x8000000000000003 4).regs.pcur.toNat (2 ^ 63 + 3) (2 ^ 63 + 2) ∧
        NextPrimeIs searchCfg.source (2 ^ 63 + 2) (2 ^ 63 + 1) (2 ^ 63) ∧ ¬KdAccepts (2 ^ 63 + 3) (2 ^ 63 + 1)) ∧
      (NextPrimeIs tableCfg.source (generating tableCfg 4 4).regs.pcur.toNat 6 2 ∧ NextPrimeIs tableCfg.source 2 47 0 ∧
        KdAccepts 6 47) :=
  ⟨by decide, by decide, ⟨by decide, by show 1 < 2; decide⟩,
    ⟨by show ¬5 < 2; decide, ⟨rfl, largest_five⟩, next_three, accepts_five_three, by decide, by decide⟩, by decide,
    ⟨by decide, next_high, next_high_again, rejects_high⟩,
    next_outside (by decide), next_entry (c := 2) rfl, by decide, by decide, by decide, by decide, by decide⟩

theorem witness_GenerateCompletes :
    IsIndex searchCfg.source (generating searchCfg 5 4).regs.pcur.toNat ∧
      (∀ seed, (generating searchCfg 5 4).cfg.source = .search seed →
        (generating searchCfg 5 4).regs.pcur.toNat < 2 ^ 63) ∧
      searchCfg.bufCap ≤ 65536 ∧ 1 ≤ (generating searchCfg 5 4).regs.msgLen.toNat ∧
      (generating searchCfg 5 4).regs.msgLen.toNat ≤ searchCfg.bufCap ∧
      NextPrimeIs searchCfg.source (generating searchCfg 5 4).regs.pcur.toNat 5 4 ∧ NextPrimeIs searchCfg.source 4 3 2 ∧
      KdAccepts 5 3 :=
  ⟨search_index _, fun _ _ => by decide, by decide, by decide, by decide, ⟨rfl, largest_five⟩, next_three, accepts_five_three⟩

/-- The state after GENERATE's RESOURCE error from the cursor 5. -/
def tooLong : State :=
  ((generating searchCfg 5 5).commitKeyPhase 5 3 2 { n := 15, phi := 8, e := 3, d := 3 } 0).finish .resource

theorem witness_GenerateKeepsTheKeyOnResource :
    exec .generate (generating searchCfg 5 5) = .next tooLong ∧ tooLong.isBusy = false ∧ tooLong.status.err = .resource ∧
      exec .generate (generating searchCfg 5 0) = .next (generating searchCfg 5 0).lock ∧
      (generating searchCfg 5 0).lock.isBusy = false ∧ (generating searchCfg 5 0).lock.status.err ≠ .resource ∧
      (generating searchCfg 5 0).lock.status.err ≠ .none := ⟨rfl, rfl, rfl, rfl, rfl, by decide, by decide⟩

end Sys2Proof.Tests
end

