-- ==== Sys2Proof/Proofs/Configuration.lean ====
section
/-! PROOF. The configurations that run (00_scope.md R11, R12): what the Boolean check says of each prime source, and what a step of a
configuration outside it answers. -/

namespace Sys2Proof

open Machine Claims

/-! ### The check on the prime source -/

theorem wellFormed_table_iff (entries : List Word) :
    (PrimeSource.table entries).wellFormed = true ↔
      2 ≤ entries.length ∧ entries.length ≤ 2 ^ 32 - 1 ∧ (∀ p ∈ entries, p.toNat.Prime) ∧ entries.Nodup := by
  simp only [PrimeSource.wellFormed, Bool.and_eq_true, decide_eq_true_eq, List.all_eq_true, and_assoc]

theorem wellFormed_search_iff (seed : Word) :
    (PrimeSource.search seed).wellFormed = true ↔
      seed.toNat % 2 = 1 ∧ 3 ≤ seed.toNat ∧ seed.toNat ≤ 2 ^ 63 - 1 := by
  simp only [PrimeSource.wellFormed, Bool.and_eq_true, decide_eq_true_eq, and_assoc]

/-- The check on the source, in the form of `LegalConfiguration`: one condition for each `PSRC_MODE`. -/
theorem source_wellFormed_iff (src : PrimeSource) :
    src.wellFormed = true ↔
      (∀ entries, src = .table entries →
        2 ≤ entries.length ∧ entries.length ≤ 2 ^ 32 - 1 ∧ (∀ p ∈ entries, p.toNat.Prime) ∧ entries.Nodup) ∧
      ∀ seed, src = .search seed → seed.toNat % 2 = 1 ∧ 3 ≤ seed.toNat ∧ seed.toNat ≤ 2 ^ 63 - 1 := by
  cases src with
  | table entries => simp [wellFormed_table_iff]
  | search seed => simp [wellFormed_search_iff]

/-! ### The check on the configuration -/

/-- `FATAL_CODE` is a nonzero byte exactly when its value is at least 1 (R11). -/
theorem fatalCode_ne_zero_iff (b : Byte) : b ≠ 0 ↔ 1 ≤ b.toNat := by
  rw [Nat.one_le_iff_ne_zero]
  exact not_congr BitVec.toNat_eq

theorem params_wellFormed_iff (c : Params) :
    c.wellFormed = true ↔
      (1 ≤ c.bufCap ∧ c.bufCap ≤ 65536) ∧ 1 ≤ c.fatalCode.toNat ∧ c.source.wellFormed = true := by
  simp only [Params.wellFormed, Bool.and_eq_true, decide_eq_true_eq, bne_iff_ne, fatalCode_ne_zero_iff, and_assoc]

theorem wellFormed_iff_legalConfiguration (c : Params) : c.wellFormed = true ↔ LegalConfiguration c := by
  rw [params_wellFormed_iff, source_wellFormed_iff]
  exact ⟨fun ⟨hcap, hfatal, htable, hseed⟩ => ⟨hcap, hfatal, htable, hseed⟩,
    fun ⟨hcap, hfatal, htable, hseed⟩ => ⟨hcap, hfatal, htable, hseed⟩⟩

/-! ### The step of a configuration that is no RSA64 core -/

theorem step_eq_refused {s : State} (h : s.cfg.wellFormed ≠ true) : step s = .refused .notAnRsa64Core := if_neg h

/-- Settles O58: the Boolean check is R11 and R12 field by field, and `step` refuses what fails it. -/
theorem onlyLegalConfigurationsRun : Obligations.OnlyLegalConfigurationsRun :=
  ⟨wellFormed_iff_legalConfiguration,
    fun s hillegal => step_eq_refused (mt (wellFormed_iff_legalConfiguration s.cfg).mp hillegal)⟩

end Sys2Proof
end

section
/-! PROOF. The state and the port (10_state.md): what one step can do, the invariant of every run, the fatal phase, what belongs to
the host, and the words that the registers of the window read and store. -/

namespace Sys2Proof

open Machine Claims

/-! ### What one step can do -/

/-- The three events of a step (40_execution.md R130): a host transaction, a reset, or the unit's turn. -/
inductive StepCase (s : State) : State → Prop where
  | bus (x : Transaction) : StepCase s (s.begin.transact x)
  | reset (hr : s.inputs.head? = some .reset) : StepCase s s.begin.applyReset
  | unit {t : State} (hu : s.inputs.head? = none ∨ s.inputs.head? = some .unit) (ht : unitTurn s.begin = .next t) :
      StepCase s t

theorem stepEvent_cases {s t : State} (h : stepEvent s = .next t) : StepCase s t := by
  unfold stepEvent at h
  split at h
  · cases h; exact .bus _
  · next hr => cases h; exact .reset hr
  · next hu => exact .unit (.inr hu) h
  · next hu => exact .unit (.inl hu) h

theorem step_eq_stepEvent {s : State} (h : s.cfg.wellFormed = true) : step s = stepEvent s := if_pos h

theorem step_cases {s t : State} (hc : s.cfg.wellFormed = true) (h : step s = .next t) : StepCase s t :=
  stepEvent_cases (step_eq_stepEvent hc ▸ h)

/-- A step answers only in a configuration that R11 and R12 allow. -/
theorem wellFormed_of_step {s t : State} (h : step s = .next t) : s.cfg.wellFormed = true := by
  by_contra hc
  rw [step_eq_refused hc] at h
  cases h

/-- What the unit's turn can do (R136, R145): complete the running command, complete an illegal word, or nothing. -/
inductive TurnCase (s : State) : State → Prop where
  | command {t : State} (i : Instr) (hp : s.phase = .busy (.command i)) (ht : exec i s = .next t) : TurnCase s t
  | illegal (hp : s.phase = .busy .illegal) : TurnCase s (s.finish .illegalCmd)
  | nothing : TurnCase s s

theorem unitTurn_cases {s t : State} (h : unitTurn s = .next t) : TurnCase s t := by
  unfold unitTurn at h
  split at h
  · next i hp => exact .command i hp h
  · next hp => cases h; exact .illegal hp
  all_goals cases h; exact .nothing

/-- The unit has nothing to do outside BUSY (R50). -/
theorem unitTurn_eq_of_not_busy {s : State} (h : s.phase = .idle ∨ s.phase = .locked) : unitTurn s = .next s := by
  rcases h with h | h <;> simp [unitTurn, h]

/-- Every completion of a command is its writes with another phase and another STATUS, WERR and LAST_OP as they were (R136, R142,
R312). -/
theorem exec_writes {i : Instr} {s t : State} (h : exec i s = .next t) :
    ∃ (u : State) (p : Phase) (st : Status), Writes (FreesCursor i s) s u ∧ t = { u with phase := p, status := st } ∧
      st.werr = s.status.werr ∧ st.lastOp = s.status.lastOp := by
  cases exec_completion h with
  | finished e he hu => exact ⟨_, _, _, hu, rfl, by rw [hu.status], by rw [hu.status]⟩
  | locked ha hu => exact ⟨_, _, _, hu, rfl, by rw [hu.status], by rw [hu.status]⟩
  | hung ha => exact ⟨s.setDraws _, _, _, Writes.draws s _, rfl, rfl, rfl⟩

/-! ### What one transaction can do -/

/-- What a host transaction can do to the state, but for the response on the port and the counter of free values (R34, R39 to R48,
R76, R131). -/
inductive HostEffect (s : State) : State → Prop where
  | none : HostEffect s s
  | status (v : Word) : HostEffect s (s.writeStatus v)
  | irqEn (v : Word) : HostEffect s (s.writeIrqEn v)
  | ignored : HostEffect s s.ignoreWrite
  | accepted (w : Word) (hi : s.phase = .idle) : HostEffect s (s.accept w)
  | register (r : Regs) (hi : s.phase = .idle) (hp : r.pcur = s.regs.pcur ∨ LegalCursor s.cfg r.pcur) :
      HostEffect s (s.setRegs r)
  | message (k : Nat) (v : Word) (hi : s.phase = .idle) : HostEffect s (s.writeMsgWord k v)

/-- A cursor write stores a legal cursor or is ignored (R45). -/
theorem writeCursor_effect {s : State} (hi : s.phase = .idle) (v : Word) : HostEffect s (s.writeCursor v) := by
  unfold State.writeCursor
  split
  · next seed hsrc => exact .register _ hi (.inr fun entries he => by simp [hsrc] at he)
  · next entries hsrc =>
    split
    · next hv => exact .register _ hi (.inr fun entries' he => by cases hsrc.symm.trans he; exact hv)
    · exact .ignored

/-- While IDLE every target is written as `writeIdle` says, STATUS and IRQ_EN as in any other phase. -/
theorem writeTarget_idle {s : State} (hi : s.phase = .idle) (v : Word) (g : Target) :
    s.writeTarget v g = s.writeIdle v g := by
  by_cases hs : g = .status
  · subst hs; rfl
  · by_cases hq : g = .irqEn
    · subst hq; rfl
    · rw [State.writeTarget, if_neg hs, if_neg hq, if_pos hi]

theorem writeIdle_effect {s : State} (hi : s.phase = .idle) (v : Word) (g : Target) : HostEffect s (s.writeIdle v g) := by
  cases g
  case cmd => exact .accepted v hi
  case status => exact .status v
  case irqEn => exact .irqEn v
  case pcur => exact writeCursor_effect hi v
  case msg k => exact .message k v hi
  case config | caps | res0 | res1 | ct => exact .ignored
  all_goals exact .register _ hi (.inl rfl)

theorem writeTarget_effect (s : State) (v : Word) (g : Target) : HostEffect s (s.writeTarget v g) := by
  by_cases hi : s.phase = .idle
  · rw [writeTarget_idle hi]; exact writeIdle_effect hi v g
  · rcases State.writeTarget_not_idle hi v g with hw | hw | hw <;> rw [hw]
    · exact .status v
    · exact .irqEn v
    · exact .ignored

theorem transact_effect (s : State) (x : Transaction) :
    ∃ u r d, HostEffect s u ∧ s.transact x = { u with port := some r, draws := d } := by
  cases x with
  | read off bytes =>
    obtain ⟨r, d, h⟩ := s.transact_read off bytes
    exact ⟨s, r, d, .none, h⟩
  | write off bytes strobes v =>
    cases ht : (Transaction.write off bytes strobes v).target s.cfg with
    | none =>
      obtain ⟨data, d, h⟩ := State.transact_rejected ht
      exact ⟨s, _, d, .none, h⟩
    | some g => exact ⟨_, _, _, writeTarget_effect s v g, State.transact_write ht⟩

/-! ### The invariant on memory -/

theorem MemoryInv.congr {s t : State} (h : MemoryInv s) (hm : t.mem = s.mem) (hc : t.cfg = s.cfg) : MemoryInv t :=
  ⟨hm ▸ h.canonical, by rw [hm, hc]; exact h.inside⟩

theorem memoryInv_of_mem_nil {s : State} (hm : s.mem = []) : MemoryInv s :=
  ⟨by simp [hm, Memory.wf], by simp [hm]⟩

theorem MemoryInv.hostEffect {s u : State} (h : MemoryInv s) (hu : HostEffect s u) : MemoryInv u := by
  cases hu with
  | message k v hi =>
    exact ⟨writeMsgBytes_wf _ h.canonical _ _ _,
      fun cell hcell => (mem_writeMsgBytes _ hcell).elim .inl (h.inside cell)⟩
  | _ => exact h.congr rfl rfl

theorem MemoryInv.transact {s : State} (h : MemoryInv s) (x : Transaction) : MemoryInv (s.transact x) := by
  obtain ⟨u, r, d, hu, ht⟩ := transact_effect s x
  rw [ht]
  exact (h.hostEffect hu).congr rfl rfl

theorem MemoryInv.writes {F : Prop} {s u : State} (h : MemoryInv s) (hu : Writes F s u) : MemoryInv u :=
  ⟨hu.canonical h.canonical, fun cell hcell => by
    rw [hu.cfg]; exact (hu.cells cell hcell).elim id (h.inside cell)⟩

theorem MemoryInv.exec {i : Instr} {s t : State} (h : MemoryInv s) (ht : exec i s = .next t) : MemoryInv t := by
  obtain ⟨u, p, st, hu, rfl, -⟩ := exec_writes ht
  exact (h.writes hu).congr rfl rfl

/-! ### The invariant on the cursor -/

theorem CursorInv.congr {s t : State} (h : CursorInv s) (hp : t.regs.pcur = s.regs.pcur) (hc : t.cfg = s.cfg) :
    CursorInv t := by
  unfold CursorInv
  rw [hp, hc]
  exact h

theorem CursorInv.hostEffect {s u : State} (h : CursorInv s) (hu : HostEffect s u) : CursorInv u := by
  cases hu with
  | register r hi hp =>
    rcases hp with hp | hp
    · exact h.congr hp rfl
    · exact hp
  | _ => exact h.congr rfl rfl

theorem CursorInv.transact {s : State} (h : CursorInv s) (x : Transaction) : CursorInv (s.transact x) := by
  obtain ⟨u, r, d, hu, ht⟩ := transact_effect s x
  rw [ht]
  exact (h.hostEffect hu).congr rfl rfl

/-- The cursor of R56 is legal: `PTABLE` has an entry in TABLE mode (R12). -/
theorem legalCursor_resetCursor {c : Params} (hc : c.wellFormed = true) : LegalCursor c c.source.resetCursor := by
  intro entries hsrc
  obtain ⟨hlen, -⟩ := ((wellFormed_iff_legalConfiguration c).mp hc).table entries hsrc
  rw [hsrc]
  exact lt_of_lt_of_le Nat.zero_lt_two hlen

/-- Every step keeps the cursor an index of the table, but for the unit's turn of an unconstrained KEYGEN or GENERATE. -/
theorem CursorInv.step {s t : State} (h : CursorInv s) (hc : s.cfg.wellFormed = true) (ht : step s = .next t) :
    CursorInv t ∨ ∃ i, s.phase = .busy (.command i) ∧ FreesCursor i s ∧
      (s.inputs.head? = none ∨ s.inputs.head? = some .unit) := by
  have hb : CursorInv s.begin := h.congr (by simp) (by simp)
  cases step_cases hc ht with
  | bus x => exact .inl (hb.transact x)
  | reset hr => exact .inl (legalCursor_resetCursor (by simpa using hc))
  | unit hu hturn =>
    cases unitTurn_cases hturn with
    | command i hp hexec =>
      refine (exec_cursor hexec hb).imp_right fun hfree => ⟨i, by simpa using hp, ?_, hu⟩
      simpa [FreesCursor] using hfree
    | illegal hp => exact .inl (hb.congr rfl rfl)
    | nothing => exact .inl hb

/-- Settles O59: `CursorInv.step`, the unconstrained commands being KEYGEN and GENERATE (R142). -/
theorem cursorStaysAnIndexUnlessUnconstrained : Obligations.CursorStaysAnIndexUnlessUnconstrained := by
  intro s t hc hindex hstep
  rcases CursorInv.step (s := s) hindex hc hstep with ht | ⟨i, hp, ⟨ha, hi⟩, hu⟩
  · exact .inl ht
  · exact .inr ⟨ha, hi.imp (fun h => by rw [hp, h]) (fun h => by rw [hp, h]), hu⟩

/-! ### The invariant on STATUS and the phase -/

theorem isFatal_iff (s : State) : s.isFatal = true ↔ s.phase = .locked := by simp [State.isFatal]

theorem isBusy_iff (s : State) : s.isBusy = true ↔ ∃ c, s.phase = .busy c := by
  unfold State.isBusy
  split <;> simp [*]

theorem isFatal_congr {s t : State} (hp : t.phase = s.phase) : t.isFatal = s.isFatal := by simp [State.isFatal, hp]

theorem isBusy_congr {s t : State} (hp : t.phase = s.phase) : t.isBusy = s.isBusy := by simp [State.isBusy, hp]

/-- An OP code selects the command whose opcode it is (30_encoding.md R102). -/
theorem opcode_of_instrOfOp {op : BitVec 8} {i : Instr} (h : instrOfOp op = some i) : op = opcode i := by
  apply BitVec.eq_of_toNat_eq
  unfold instrOfOp at h
  split at h <;> simp only [Option.some.injEq, reduceCtorEq] at h
  all_goals subst h; assumption

/-- The low byte of an accepted command word is the opcode of the command it decodes to (R103, R131). -/
theorem opField_of_currentOf {w : Word} {i : Instr} (h : currentOf w = .command i) : opField w = opcode i := by
  unfold currentOf at h
  split at h
  · next j hd =>
    cases h
    unfold decode at hd
    split at hd
    · split at hd
      · next hop => cases hd; exact opcode_of_instrOfOp hop
      · cases hd
    · cases hd
  · cases h

/-- EXIT_CODE is 0 outside LOCKED (R35). -/
theorem StatusInv.exitCode_eq_zero {s : State} (h : StatusInv s) (hp : s.phase ≠ .locked) : s.status.exitCode = 0 := by
  rw [h.exitCode, if_neg (mt (isFatal_iff s).mp hp)]

/-- Where the phase stands, the invariant speaks of no STATUS bit but ERR, EXIT_CODE, LAST_OP, and DONE while BUSY. -/
theorem StatusInv.congr {s t : State} (h : StatusInv s) (hc : t.cfg = s.cfg) (hp : t.phase = s.phase)
    (hx : t.status.exitCode = s.status.exitCode) (he : t.status.err = s.status.err)
    (hl : t.status.lastOp = s.status.lastOp) (hd : s.status.done = false → t.status.done = false) : StatusInv t where
  exitCode := by rw [hx, hc, isFatal_congr hp, h.exitCode]
  invalidArg := by rw [he, hp, h.invalidArg]
  lockedOnlyEnforced := by rw [hc, hp]; exact h.lockedOnlyEnforced
  busyQuiet := by
    rw [he, isBusy_congr hp]
    exact fun hb => (h.busyQuiet hb).imp_left hd
  busyOpcode := by rw [hl, hp]; exact h.busyOpcode

theorem StatusInv.accept {s : State} (h : StatusInv s) (hi : s.phase = .idle) (w : Word) : StatusInv (s.accept w) where
  exitCode := by simp [State.isFatal, h.exitCode_eq_zero (by simp [hi])]
  invalidArg := by simp
  lockedOnlyEnforced := by simp
  busyQuiet := by simp
  busyOpcode i hp := opField_of_currentOf (by simpa using hp)

theorem statusInv_finish {s : State} (hx : s.status.exitCode = 0) {e : ErrCode} (he : e ≠ .invalidArg) :
    StatusInv (s.finish e) where
  exitCode := by simp [State.isFatal, hx]
  invalidArg := by simp [he]
  lockedOnlyEnforced := by simp
  busyQuiet := by simp [State.isBusy]
  busyOpcode := by simp

theorem statusInv_lock {s : State} (ha : s.cfg.assertEn = true) : StatusInv s.lock where
  exitCode := by simp [State.isFatal]
  invalidArg := by simp
  lockedOnlyEnforced := by simp [ha]
  busyQuiet := by simp [State.isBusy]
  busyOpcode := by simp

theorem StatusInv.hung {s : State} (h : StatusInv s) {c : Current} (hp : s.phase = .busy c) (d : Nat) :
    StatusInv ((s.setDraws d).setPhase (.busy .hung)) where
  exitCode := by simp [State.isFatal, h.exitCode_eq_zero (by simp [hp])]
  invalidArg := by simp [h.invalidArg, hp]
  lockedOnlyEnforced := by simp
  busyQuiet _ := h.busyQuiet ((isBusy_iff s).mpr ⟨c, hp⟩)
  busyOpcode := by simp

theorem StatusInv.hostEffect {s u : State} (h : StatusInv s) (hu : HostEffect s u) : StatusInv u := by
  cases hu with
  | status v => exact h.congr rfl rfl rfl rfl rfl fun hd => by simp [hd]
  | accepted w hi => exact h.accept hi w
  | _ => exact h.congr rfl rfl rfl rfl rfl id

theorem StatusInv.transact {s : State} (h : StatusInv s) (x : Transaction) : StatusInv (s.transact x) := by
  obtain ⟨u, r, d, hu, ht⟩ := transact_effect s x
  rw [ht]
  exact (h.hostEffect hu).congr rfl rfl rfl rfl rfl id

/-- A completing command leaves BUSY or hangs; LOCKED comes with INVALID_ARG and FATAL_CODE, and from ASSERT_EN = 1 only (R141,
R142). -/
theorem StatusInv.exec {i : Instr} {s t : State} (h : StatusInv s) (hp : s.phase = .busy (.command i))
    (ht : exec i s = .next t) : StatusInv t := by
  cases exec_completion ht with
  | finished e he hu => exact statusInv_finish (by rw [hu.status, h.exitCode_eq_zero (by simp [hp])]) he
  | locked ha hu => exact statusInv_lock (by rw [hu.cfg, ha])
  | hung ha => exact h.hung hp _

/-! ### The invariant -/

theorem inv_powerOn {c : Params} (hc : c.wellFormed = true) : Inv (State.powerOn c) where
  config := hc
  memory := memoryInv_of_mem_nil rfl
  cursor _ := legalCursor_resetCursor hc
  status :=
    { exitCode := rfl
      invalidArg := by simp [State.powerOn]
      lockedOnlyEnforced := by simp [State.powerOn]
      busyQuiet := by simp [State.powerOn, State.isBusy]
      busyOpcode := by simp [State.powerOn] }

/-- The invariant does not speak of the port, IRQ_EN, the events, the counters or the registers but PCUR. -/
theorem Inv.congr {s t : State} (h : Inv s) (hc : t.cfg = s.cfg) (hp : t.phase = s.phase) (hs : t.status = s.status)
    (hm : t.mem = s.mem) (hr : t.regs.pcur = s.regs.pcur) : Inv t where
  config := hc ▸ h.config
  memory := h.memory.congr hm hc
  cursor ha := (h.cursor (hc ▸ ha)).congr hr hc
  status := h.status.congr hc hp (by rw [hs]) (by rw [hs]) (by rw [hs]) (by rw [hs]; exact id)

theorem Inv.begin {s : State} (h : Inv s) : Inv s.begin := h.congr (by simp) (by simp) (by simp) (by simp) (by simp)

theorem Inv.applyReset {s : State} (h : Inv s) : Inv s.applyReset :=
  (inv_powerOn h.config).congr rfl rfl rfl rfl rfl

theorem Inv.transact {s : State} (h : Inv s) (x : Transaction) : Inv (s.transact x) :=
  have hcfg := (s.transact_frame x).cfg
  { config := hcfg ▸ h.config
    memory := h.memory.transact x
    cursor := fun ha => (h.cursor (hcfg ▸ ha)).transact x
    status := h.status.transact x }

/-- No command changes the configuration. -/
theorem exec_cfg {i : Instr} {s t : State} (h : exec i s = .next t) : t.cfg = s.cfg := by
  obtain ⟨u, p, st, hu, rfl, -⟩ := exec_writes h
  exact hu.cfg

theorem Inv.exec {i : Instr} {s t : State} (h : Inv s) (hp : s.phase = .busy (.command i)) (ht : exec i s = .next t) :
    Inv t where
  config := exec_cfg ht ▸ h.config
  memory := h.memory.exec ht
  cursor ha := by
    rw [exec_cfg ht] at ha
    refine (exec_cursor ht (h.cursor ha)).resolve_right fun hfree => ?_
    simp [hfree.1] at ha
  status := h.status.exec hp ht

/-- An illegal word completes with ERR 3 and touches STATUS and the phase alone (R145). -/
theorem Inv.finish_illegal {s : State} (h : Inv s) (hp : s.phase = .busy .illegal) : Inv (s.finish .illegalCmd) where
  config := h.config
  memory := h.memory.congr rfl rfl
  cursor ha := (h.cursor ha).congr rfl rfl
  status := statusInv_finish (h.status.exitCode_eq_zero (by simp [hp])) (by simp)

theorem Inv.unitTurn {s t : State} (h : Inv s) (ht : unitTurn s = .next t) : Inv t := by
  cases unitTurn_cases ht with
  | command i hp hexec => exact h.exec hp hexec
  | illegal hp => exact h.finish_illegal hp
  | nothing => exact h

/-- Settles O12, event by event: `Inv.transact`, `Inv.applyReset`, `Inv.unitTurn`. -/
theorem everyStepKeepsTheInvariant : Obligations.EveryStepKeepsTheInvariant := by
  intro s t hs hstep
  cases step_cases hs.config hstep with
  | bus x => exact hs.begin.transact x
  | reset hr => exact hs.begin.applyReset
  | unit hu hturn => exact hs.begin.unitTurn hturn

/-- Settles O11: `inv_powerOn`, and the reference configuration is legal. -/
theorem resetMeetsTheInvariant : Obligations.ResetMeetsTheInvariant :=
  ⟨inv_powerOn (by decide), fun _ hc => inv_powerOn hc⟩

/-! ### The fatal phase and the host's state -/

/-- A command that ends in LOCKED, or in INVALID_ARG where ERR was 0, took the fatal completion (R312). -/
theorem exec_fatal {i : Instr} {s t : State} (h : exec i s = .next t)
    (hf : t.isFatal = true ∨ (t.status.err = .invalidArg ∧ s.status.err = .none)) :
    t.isFatal = true ∧ t.status.exitCode = s.cfg.fatalCode := by
  cases exec_completion h with
  | finished e he hu => simp [State.isFatal, he] at hf
  | locked ha hu => exact ⟨rfl, by simp [hu.cfg]⟩
  | hung ha =>
    rcases hf with hf | ⟨he, hnone⟩
    · simp [State.isFatal] at hf
    · simp [hnone] at he

/-- In LOCKED every step is a reset or leaves the phase, EXIT_CODE, ERR, the registers and the buffers (R46, R50, R341). -/
theorem step_locked {s t : State} (hp : s.phase = .locked) (h : step s = .next t) :
    (s.inputs.head? = some .reset ∧ t.phase = .idle ∧ t.status.exitCode = 0) ∨
      (t.phase = .locked ∧ t.status.exitCode = s.status.exitCode ∧ t.status.err = s.status.err ∧ t.regs = s.regs ∧
        t.mem = s.mem) := by
  have hb : s.begin.phase = .locked := by simp [hp]
  cases step_cases (wellFormed_of_step h) h with
  | bus x =>
    obtain ⟨hphase, hregs, hmem, herr, -⟩ := State.transact_not_idle (s := s.begin) (by simp [hp]) x
    have hexit := (s.begin.transact_frame x).exitCode
    exact .inr ⟨hphase.trans hb, by simpa using hexit, by simpa using herr, by simpa using hregs, by simpa using hmem⟩
  | reset hr => exact .inl ⟨hr, rfl, rfl⟩
  | unit hu hturn =>
    cases (unitTurn_eq_of_not_busy (.inr hb)).symm.trans hturn
    exact .inr (by simp [hp])

/-- Settles O13: `exec_fatal` and `step_locked`. -/
theorem fatalIsStickyUntilReset : Obligations.FatalIsStickyUntilReset :=
  ⟨fun _ _ _ => exec_fatal, fun _ _ => step_locked⟩

/-- Settles O16: what `Writes` keeps in every completion (`exec_writes`); a message byte lies below CTBUF (20_memory.md R78). -/
theorem hostOwnedStateSurvivesEveryCommand : Obligations.HostOwnedStateSurvivesEveryCommand := by
  intro i s t _ h
  have hmsg : ∀ k < 65536, ¬(ctBase ≤ msgBase + k ∧ msgBase + k < ctBase + 8 * s.cfg.bufCap) := by
    intro k hk; simp only [msgBase, ctBase]; omega
  obtain ⟨u, p, st, hu, rfl, hwerr, hlast⟩ := exec_writes h
  exact ⟨hu.opa, hu.opb, hu.opc, hu.msgLen, hu.irqEn, hwerr, hlast, hu.cfg, hu.port, hu.inputs, hu.epoch,
    fun k hk => hu.bytes _ (hmsg k hk), hu.bytes⟩

@[simp] theorem applyReset_pcur (s : State) : s.applyReset.regs.pcur = s.cfg.source.resetCursor := rfl

theorem statusWord_powerOn (c : Params) : (State.powerOn c).statusWord = 0 := by
  have hf : (State.powerOn c).isFatal = false := rfl
  rw [State.statusWord, hf]
  simp [State.powerOn, State.isBusy, ErrCode.bits]

theorem irqEnWord_powerOn (c : Params) : (State.powerOn c).irqEnWord = 0 := by
  simp [State.irqEnWord, State.powerOn]

/-- Settles O33: a reset goes to the values of `State.powerOn`, and every STATUS field among them is 0. -/
theorem resetLeavesTheResetValues : Obligations.ResetLeavesTheResetValues := by
  intro s hc hr
  refine ⟨s.begin.applyReset, by simp only [step_eq_stepEvent hc, stepEvent, hr], rfl, statusWord_powerOn s.begin.cfg,
    irqEnWord_powerOn s.begin.cfg, rfl, by simp, rfl, rfl, rfl, rfl, rfl, rfl, rfl, rfl, rfl, rfl, ?_, ?_⟩
  · intro entries hsrc; simp [hsrc, PrimeSource.resetCursor]
  · intro seed hsrc; simp [hsrc, PrimeSource.resetCursor]

/-! ### Accepted transactions -/

/-- `off` is the offset of the register `g` (10_state.md R31). -/
abbrev RegisterAt (off : BitVec 20) (g : Target) : Prop :=
  off.toNat % 8 = 0 ∧ off.toNat < 0x80 ∧ registerBlock[off.toNat / 8]? = some g

theorem targetAt_register {off : BitVec 20} {g : Target} (h : RegisterAt off g) (c : Params) :
    targetAt c off.toNat = some g := by
  obtain ⟨-, hlt, hreg⟩ := h
  rw [targetAt, if_pos hlt, hreg]

theorem targetAt_msg {c : Params} {k : Nat} (hk : k < msgWords c) : targetAt c (msgBase + 8 * k) = some (.msg k) := by
  rw [targetAt, if_neg (by simp only [msgBase]; omega), if_pos (by omega), Nat.add_sub_cancel_left,
    Nat.mul_div_cancel_left k (by decide)]

theorem targetAt_ct {c : Params} {i : Nat} (hcap : c.bufCap ≤ 65536) (hi : i < c.bufCap) :
    targetAt c (ctBase + 8 * i) = some (.ct i) := by
  rw [targetAt, if_neg (by simp only [ctBase]; omega), if_neg (by simp only [msgBase, ctBase, msgWords]; omega),
    if_pos (by omega), Nat.add_sub_cancel_left, Nat.mul_div_cancel_left i (by decide)]

theorem target_rd {c : Params} {off : BitVec 20} {g : Target} (ha : off.toNat % 8 = 0) (h : targetAt c off.toNat = some g) :
    (rd off).target c = some g := by
  simp [rd, Transaction.target, Transaction.wellFormed, Transaction.off, ha, h]

theorem target_wr {c : Params} {off : BitVec 20} {g : Target} (ha : off.toNat % 8 = 0) (h : targetAt c off.toNat = some g)
    (v : Word) : (wr off v).target c = some g := by
  simp [wr, Transaction.target, Transaction.wellFormed, Transaction.off, ha, h]

/-- An accepted read of a target that is not hidden returns its current value (R76, R137). -/
theorem transact_rd {s : State} {off : BitVec 20} {g : Target} (h : (rd off).target s.cfg = some g)
    (hv : s.isBusy = false ∨ g.hiddenWhileBusy = false) : s.transact (rd off) = { s with port := okData (s.peek g) } := by
  have hread : s.transact (rd off) = s.readTarget g := by
    rw [rd] at h ⊢
    simp only [State.transact, h]
  have hshown : ¬(s.isBusy && g.hiddenWhileBusy) = true := by rcases hv with hv | hv <;> simp [hv]
  rw [hread, State.readTarget, if_neg hshown]
  rfl

theorem transact_wr {s : State} {off : BitVec 20} {v : Word} {g : Target} (h : (wr off v).target s.cfg = some g) :
    s.transact (wr off v) = (s.writeTarget v g).setPort okWrite := State.transact_write h

section Registers

variable {off : BitVec 20} {g : Target} (hreg : RegisterAt off g)
include hreg

theorem transact_rd_register {s : State} (hv : s.isBusy = false ∨ g.hiddenWhileBusy = false) :
    s.transact (rd off) = { s with port := okData (s.peek g) } :=
  transact_rd (target_rd hreg.1 (targetAt_register hreg _)) hv

theorem transact_wr_register (s : State) (v : Word) : s.transact (wr off v) = (s.writeTarget v g).setPort okWrite :=
  transact_wr (target_wr hreg.1 (targetAt_register hreg _) v)

theorem transact_wr_register_idle {s : State} (hi : s.phase = .idle) (v : Word) :
    s.transact (wr off v) = (s.writeIdle v g).setPort okWrite := by
  rw [transact_wr_register hreg, writeTarget_idle hi]

end Registers

/-! ### The words of MSGBUF and CTBUF -/

/-- The 20-bit offset of an offset of the window. -/
theorem toNat_offset {a : Nat} (h : a < 0x100000) : (BitVec.ofNat 20 a).toNat = a := by
  rw [BitVec.toNat_ofNat, Nat.mod_eq_of_lt h]

section MessageWords

variable {c : Params} {k : Nat} (hcap : c.bufCap ≤ 65536) (hk : k < (c.bufCap + 7) / 8)
include hcap hk

theorem toNat_msgOffset : (BitVec.ofNat 20 (0x10000 + 8 * k)).toNat = msgBase + 8 * k := toNat_offset (by omega)

theorem target_rd_msg : (rd (BitVec.ofNat 20 (0x10000 + 8 * k))).target c = some (.msg k) := by
  have ho := toNat_msgOffset hcap hk
  exact target_rd (by rw [ho]; simp only [msgBase]; omega) (by rw [ho]; exact targetAt_msg hk)

theorem target_wr_msg (v : Word) : (wr (BitVec.ofNat 20 (0x10000 + 8 * k)) v).target c = some (.msg k) := by
  have ho := toNat_msgOffset hcap hk
  exact target_wr (by rw [ho]; simp only [msgBase]; omega) (by rw [ho]; exact targetAt_msg hk) v

end MessageWords

theorem target_rd_ct {c : Params} {i : Nat} (hcap : c.bufCap ≤ 65536) (hi : i < c.bufCap) :
    (rd (BitVec.ofNat 20 (0x80000 + 8 * i))).target c = some (.ct i) := by
  have ho : (BitVec.ofNat 20 (0x80000 + 8 * i)).toNat = ctBase + 8 * i := toNat_offset (by omega)
  exact target_rd (by rw [ho]; simp only [ctBase]; omega) (by rw [ho]; exact targetAt_ct hcap hi)

/-! ### Reads -/

theorem transact_rd_msg {s : State} {k : Nat} (hcap : s.cfg.bufCap ≤ 65536) (hk : k < (s.cfg.bufCap + 7) / 8) :
    s.transact (rd (BitVec.ofNat 20 (0x10000 + 8 * k))) = { s with port := okData (s.msgWord k) } :=
  transact_rd (g := .msg k) (target_rd_msg hcap hk) (.inr rfl)

theorem transact_rd_ct {s : State} {i : Nat} (hb : s.isBusy = false) (hcap : s.cfg.bufCap ≤ 65536) (hi : i < s.cfg.bufCap) :
    s.transact (rd (BitVec.ofNat 20 (0x80000 + 8 * i))) = { s with port := okData (s.ctUnit i) } :=
  transact_rd (g := .ct i) (target_rd_ct hcap hi) (.inl hb)

/-- Settles O22: each register by its offset, each word of a buffer by `targetAt_msg` and `targetAt_ct`. -/
theorem readsReturnTheCurrentValue : Obligations.ReadsReturnTheCurrentValue := by
  intro s
  have always : ∀ {off g}, RegisterAt off g → g.hiddenWhileBusy = false →
      s.transact (rd off) = { s with port := okData (s.peek g) } := fun hreg hv => transact_rd_register hreg (.inr hv)
  refine ⟨⟨always (g := .config) (by decide) rfl, always (g := .caps) (by decide) rfl, always (g := .cmd) (by decide) rfl,
    always (g := .status) (by decide) rfl, always (g := .irqEn) (by decide) rfl, always (g := .opa) (by decide) rfl,
    always (g := .opb) (by decide) rfl, always (g := .opc) (by decide) rfl, always (g := .msgLen) (by decide) rfl,
    fun _ hk hcap => transact_rd_msg hcap hk⟩, fun hb => ?_⟩
  have quiet : ∀ {off g}, RegisterAt off g → s.transact (rd off) = { s with port := okData (s.peek g) } :=
    fun hreg => transact_rd_register hreg (.inl hb)
  exact ⟨quiet (g := .res0) (by decide), quiet (g := .res1) (by decide), quiet (g := .keyN) (by decide),
    quiet (g := .keyPhi) (by decide), quiet (g := .keyE) (by decide), quiet (g := .keyD) (by decide),
    quiet (g := .pcur) (by decide), fun _ hi hcap => transact_rd_ct hb hcap hi⟩

/-! ### Writes -/

/-- Settles O23: an idle write of each register by its offset. -/
theorem idleWriteStoresTheWord : Obligations.IdleWriteStoresTheWord := by
  intro s v hi
  have store : ∀ {off g}, RegisterAt off g → s.transact (wr off v) = (s.writeIdle v g).setPort okWrite :=
    fun hreg => transact_wr_register_idle hreg hi v
  exact ⟨store (g := .opa) (by decide), store (g := .opb) (by decide), store (g := .opc) (by decide),
    store (g := .keyN) (by decide), store (g := .keyPhi) (by decide), store (g := .keyE) (by decide),
    store (g := .keyD) (by decide), store (g := .msgLen) (by decide)⟩

theorem writeCursor_search {s : State} {seed : Word} (h : s.cfg.source = .search seed) (v : Word) :
    s.writeCursor v = s.setRegs { s.regs with pcur := v } := by
  simp only [State.writeCursor, h]

theorem writeCursor_index {s : State} {entries : List Word} {v : Word} (h : s.cfg.source = .table entries)
    (hv : v.toNat < entries.length) : s.writeCursor v = s.setRegs { s.regs with pcur := v } := by
  simp only [State.writeCursor, h, if_pos hv]

theorem writeCursor_not_index {s : State} {entries : List Word} {v : Word} (h : s.cfg.source = .table entries)
    (hv : entries.length ≤ v.toNat) : s.writeCursor v = s.ignoreWrite := by
  simp only [State.writeCursor, h, if_neg (Nat.not_lt.mpr hv)]

/-- Settles O24: the three cases of `State.writeCursor` (R45). -/
theorem cursorWriteStoresOnlyLegalIndices : Obligations.CursorWriteStoresOnlyLegalIndices := by
  intro s v hi
  have hw : s.transact (wr 0x00070 v) = (s.writeCursor v).setPort okWrite :=
    transact_wr_register_idle (g := .pcur) (by decide) hi v
  refine ⟨fun seed hsrc => ?_, fun entries hsrc => ⟨fun hv => ?_, fun hv => ?_⟩⟩
  · rw [hw, writeCursor_search hsrc]; rfl
  · rw [hw, writeCursor_index hsrc hv]; rfl
  · rw [hw, writeCursor_not_index hsrc hv]; rfl

/-- A write to a read-only target is ignored in every phase (R46 (a)). -/
theorem writeTarget_readOnly {g : Target} (h : g ∈ [Target.config, .caps, .res0, .res1] ∨ ∃ i, g = .ct i) (s : State)
    (v : Word) : s.writeTarget v g = s.ignoreWrite := by
  have hro : g ≠ .status ∧ g ≠ .irqEn ∧ s.writeIdle v g = s.ignoreWrite := by
    rcases h with h | ⟨i, rfl⟩
    · simp only [List.mem_cons, List.not_mem_nil, or_false] at h
      rcases h with rfl | rfl | rfl | rfl <;> exact ⟨by decide, by decide, rfl⟩
    · exact ⟨by simp, by simp, rfl⟩
  obtain ⟨hs, hq, hidle⟩ := hro
  rw [State.writeTarget, if_neg hs, if_neg hq, hidle, ite_self]

/-- While BUSY or LOCKED every write but to STATUS and IRQ_EN is ignored (R46 (b), R132). -/
theorem writeTarget_interlocked {s : State} {g : Target} (hp : s.phase ≠ .idle) (hs : g ≠ .status) (hq : g ≠ .irqEn)
    (v : Word) : s.writeTarget v g = s.ignoreWrite := by
  rw [State.writeTarget, if_neg hs, if_neg hq, if_neg hp]

/-- In TABLE mode a write of a value that is no index to PCUR is ignored in every phase (R45, R46 (c)). -/
theorem writeTarget_pcur_not_index {s : State} {entries : List Word} {v : Word} (h : s.cfg.source = .table entries)
    (hv : entries.length ≤ v.toNat) : s.writeTarget v .pcur = s.ignoreWrite := by
  by_cases hi : s.phase = .idle
  · rw [writeTarget_idle hi]; exact writeCursor_not_index h hv
  · exact writeTarget_interlocked hi (by decide) (by decide) v

/-- Settles O25: the three kinds of ignored write of R46. -/
theorem ignoredWriteOnlySetsWerr : Obligations.IgnoredWriteOnlySetsWerr := by
  intro s off v g hg h
  have hignored : s.writeTarget v g = s.ignoreWrite := by
    rcases h with h | ⟨hp, hs, hq⟩ | ⟨entries, rfl, hsrc, hv⟩
    · exact writeTarget_readOnly h s v
    · exact writeTarget_interlocked hp hs hq v
    · exact writeTarget_pcur_not_index hsrc hv
  rw [transact_wr hg, hignored]
  rfl

/-! ### STATUS, IRQ_EN, CONFIG and CAPS -/

/-- A write-1-to-clear bit: it stands unless the bit written is 1 (R39). -/
theorem and_not_getLsbD (b : Bool) (v : Word) (i : Nat) :
    (b && !v.getLsbD i) = if v.toNat / 2 ^ i % 2 = 1 then false else b := by
  rw [BitVec.getLsbD, Nat.testBit_eq_decide_div_mod_eq]
  split <;> simp [*]

/-- Settles O26: `and_not_getLsbD` at bits 1 and 3. -/
theorem statusWriteClearsDoneAndWerr : Obligations.StatusWriteClearsDoneAndWerr := by
  intro s v
  have hw : s.transact (wr 0x00018 v) = (s.writeStatus v).setPort okWrite :=
    transact_wr_register (g := .status) (by decide) s v
  rw [hw, State.writeStatus, and_not_getLsbD, and_not_getLsbD]
  rfl

/-- Fields laid side by side: the upper one counts by the size of the lower. -/
theorem toNat_append_eq {m n : Nat} (x : BitVec m) (y : BitVec n) : (x ++ y).toNat = x.toNat * 2 ^ n + y.toNat := by
  rw [BitVec.toNat_append, ← Nat.shiftLeft_add_eq_or_of_lt y.isLt, Nat.shiftLeft_eq]

theorem toNat_irqEnWord (s : State) :
    s.irqEnWord.toNat = (if s.irqEn.doneIe then 1 else 0) + (if s.irqEn.fatalIe then 2 else 0) := by
  simp only [State.irqEnWord, toNat_append_eq, BitVec.toNat_ofBool]
  cases s.irqEn.doneIe <;> cases s.irqEn.fatalIe <;> rfl

/-- Settles O27: the two bits stored are the two low bits of the word, which `toNat_irqEnWord` reads back. -/
theorem irqEnableStoresTwoBits : Obligations.IrqEnableStoresTwoBits := by
  refine ⟨fun s v => ?_, irqEnWord_powerOn⟩
  have hw : s.transact (wr 0x00020 v) =
      { s with
        irqEn := { doneIe := decide (v.toNat % 2 = 1), fatalIe := decide (v.toNat / 2 % 2 = 1) }
        port := some okWrite } := by
    rw [transact_wr_register (g := .irqEn) (by decide) s v]
    simp only [State.writeTarget, State.writeIrqEn, BitVec.getLsbD, Nat.testBit_eq_decide_div_mod_eq, pow_zero, pow_one,
      Nat.div_one]
    rfl
  refine ⟨hw, ?_⟩
  rw [hw, toNat_irqEnWord]
  simp only [decide_eq_true_eq]
  split <;> split <;> omega

/-- The layout of R35. -/
theorem toNat_statusWord (s : State) :
    s.statusWord.toNat =
      (if s.isBusy then 1 else 0) + (if s.status.done then 2 else 0) + (if s.phase = .locked then 4 else 0) +
        (if s.status.werr then 8 else 0) + 16 * s.status.err.bits.toNat + 256 * s.status.exitCode.toNat +
        65536 * s.status.lastOp.toNat := by
  have hbit : ∀ (b : Bool) (n : Nat), b.toNat * n = if b then n else 0 := by intro b n; cases b <;> simp
  have hfatal : (if s.phase = .locked then 4 else 0) = if s.isFatal then 4 else 0 := by simp only [isFatal_iff]
  rw [hfatal, ← hbit, ← hbit, ← hbit, ← hbit]
  simp only [State.statusWord, toNat_append_eq, BitVec.toNat_ofBool, BitVec.toNat_zero]
  omega

/-- The number of an error code in STATUS (R35, R300). -/
theorem err_of_statusWord (s : State) : s.statusWord.toNat / 16 % 16 = s.status.err.bits.toNat := by
  have hlow : (if s.isBusy then 1 else 0) + (if s.status.done then 2 else 0) + (if s.phase = .locked then 4 else 0) +
      (if s.status.werr then 8 else 0) < 16 := by
    (repeat' split) <;> omega
  have herr := s.status.err.bits.isLt
  rw [toNat_statusWord]
  omega

/-- Settles O28: the layout, and the number of each code in it. -/
theorem statusWordHasItsLayout : Obligations.StatusWordHasItsLayout := by
  intro s
  have hcode : ∀ e, s.status.err = e → s.statusWord.toNat / 16 % 16 = e.bits.toNat := fun e he => by
    rw [err_of_statusWord, he]
  exact ⟨hcode .none, hcode .invalidArg, hcode .resource, hcode .illegalCmd, hcode .exhausted, toNat_statusWord s⟩

theorem toNat_configWord (c : Params) :
    (configWord c).toNat = (if c.assertEn then 1 else 0) + (if c.debugEn then 2 else 0) +
      (if c.source.modeBit then 4 else 0) + 256 := by
  simp only [configWord, toNat_append_eq, BitVec.toNat_ofBool]
  cases c.assertEn <;> cases c.debugEn <;> cases c.source.modeBit <;> rfl

/-- CAPS holds both sizes whole: `BUF_CAP` and `PTABLE_LEN` fit in 32 bits (R11). -/
theorem toNat_capsWord {c : Params} (hcap : c.bufCap < 2 ^ 32) (hlen : c.source.tableLen < 2 ^ 32) :
    (capsWord c).toNat = c.bufCap + 2 ^ 32 * c.source.tableLen := by
  rw [capsWord, toNat_append_eq, BitVec.toNat_ofNat, BitVec.toNat_ofNat, Nat.mod_eq_of_lt hcap, Nat.mod_eq_of_lt hlen,
    Nat.add_comm, Nat.mul_comm]

/-- Settles O29: the words by their fields, the reads and the ignored writes by the port's rules. -/
theorem configAndCapsAreHardwired : Obligations.ConfigAndCapsAreHardwired := by
  intro s hc
  have hlegal := (wellFormed_iff_legalConfiguration s.cfg).mp hc
  have hcap : s.cfg.bufCap < 2 ^ 32 := lt_of_le_of_lt hlegal.bufCap.2 (by norm_num)
  have hignored : ∀ {off g}, RegisterAt off g → g ∈ [Target.config, .caps, .res0, .res1] → ∀ v,
      s.transact (wr off v) = { s with status := { s.status with werr := true }, port := some okWrite } := by
    intro off g hreg hg v
    rw [transact_wr_register hreg, writeTarget_readOnly (.inl hg)]
    rfl
  refine ⟨fun entries hsrc => ?_, fun seed hsrc => ?_, transact_rd_register (g := .config) (by decide) (.inr rfl),
    transact_rd_register (g := .caps) (by decide) (.inr rfl), fun v =>
      ⟨hignored (g := .config) (by decide) (by simp) v, hignored (g := .caps) (by decide) (by simp) v⟩⟩
  · obtain ⟨-, hlen, -⟩ := hlegal.table entries hsrc
    rw [toNat_configWord, toNat_capsWord hcap (by rw [hsrc]; exact Nat.lt_of_le_pred (by norm_num) hlen), hsrc]
    exact ⟨rfl, rfl⟩
  · rw [toNat_configWord, toNat_capsWord hcap (by rw [hsrc]; norm_num [PrimeSource.tableLen]), hsrc]
    exact ⟨rfl, rfl⟩

/-! ### MSGBUF words -/

theorem ofNat_div_eq_extractLsb' (v : Word) (j : Nat) : BitVec.ofNat 8 (v.toNat / 256 ^ j) = v.extractLsb' (8 * j) 8 := by
  apply BitVec.eq_of_toNat_eq
  rw [BitVec.toNat_ofNat, BitVec.extractLsb'_toNat, Nat.shiftRight_eq_div_pow, pow_mul]
  norm_num

theorem msgBytesLE_first_lt (s : State) (i : Nat) :
    (if i < s.cfg.bufCap then (s.msgByte i).toNat else 0) < 256 := by
  have := (s.msgByte i).isLt
  split <;> omega

/-- The bytes of a message word, least significant first, each 0 at an index at or above BUF_CAP (R48). -/
theorem msgBytesLE_byte (s : State) (i : Nat) {n j : Nat} (hj : j < n) :
    s.msgBytesLE i n / 256 ^ j % 256 = if i + j < s.cfg.bufCap then (s.msgByte (i + j)).toNat else 0 := by
  induction n generalizing i j with
  | zero => omega
  | succ n ih =>
    have hfirst := msgBytesLE_first_lt s i
    rw [State.msgBytesLE]
    cases j with
    | zero => rw [pow_zero, Nat.div_one, Nat.add_mul_mod_self_left, Nat.mod_eq_of_lt hfirst, Nat.add_zero]
    | succ j =>
      rw [pow_succ', ← Nat.div_div_eq_div_mul, Nat.add_mul_div_left _ _ (by decide), Nat.div_eq_of_lt hfirst, Nat.zero_add,
        ih (i + 1) (by omega), Nat.add_right_comm, Nat.add_assoc]

theorem msgBytesLE_lt (s : State) (i n : Nat) : s.msgBytesLE i n < 256 ^ n := by
  induction n generalizing i with
  | zero => exact Nat.zero_lt_one
  | succ n ih =>
    have hfirst := msgBytesLE_first_lt s i
    have hrest := ih (i + 1)
    rw [State.msgBytesLE, pow_succ']
    omega

theorem msgWord_byte (s : State) (k : Nat) {j : Nat} (hj : j < 8) :
    (s.msgWord k).extractLsb' (8 * j) 8 = if 8 * k + j < s.cfg.bufCap then s.msgByte (8 * k + j) else 0 := by
  have hword : (s.msgWord k).toNat = s.msgBytesLE (8 * k) 8 := by
    rw [State.msgWord, BitVec.toNat_ofNat]
    exact Nat.mod_eq_of_lt (msgBytesLE_lt s (8 * k) 8)
  apply BitVec.eq_of_toNat_eq
  rw [← ofNat_div_eq_extractLsb', hword, BitVec.toNat_ofNat, msgBytesLE_byte s (8 * k) hj]
  split <;> rfl

theorem readByte_writeMsgWord (s : State) (k : Nat) (v : Word) (a : Nat) :
    (s.writeMsgWord k v).readByte a =
      if msgBase + 8 * k ≤ a ∧ a < msgBase + 8 * k + 8 ∧ a < msgBase + s.cfg.bufCap then
        v.extractLsb' (8 * (a - (msgBase + 8 * k))) 8
      else s.readByte a := by
  simp only [State.readByte, State.writeMsgWord, State.setMem_mem, State.setMem_epoch, read?_writeMsgBytes]
  by_cases h : msgBase + 8 * k ≤ a ∧ a < msgBase + 8 * k + 8 ∧ a < msgBase + s.cfg.bufCap
  · rw [if_pos h, if_pos h, ← ofNat_div_eq_extractLsb']
  · rw [if_neg h, if_neg h]

/-- Settles O30: `readByte_writeMsgWord` and `msgWord_byte`. -/
theorem messageWordsPackLittleEndian : Obligations.MessageWordsPackLittleEndian := by
  intro s k v hcap hk
  refine ⟨fun hi => ⟨_, rfl, ?_⟩, s.msgWord k, transact_rd_msg hcap hk, fun j hj => msgWord_byte s k hj⟩
  have hw : s.transact (wr (BitVec.ofNat 20 (0x10000 + 8 * k)) v) = (s.writeMsgWord k v).setPort okWrite := by
    rw [transact_wr (target_wr_msg hcap hk v), writeTarget_idle hi]; rfl
  have hbyte : ∀ a, (s.transact (wr (BitVec.ofNat 20 (0x10000 + 8 * k)) v)).readByte a = (s.writeMsgWord k v).readByte a :=
    fun a => by rw [hw]; rfl
  refine ⟨by rw [hw]; rfl, fun j hj hlt => ?_, fun a ha => ?_⟩
  · rw [State.msgByte, hbyte, readByte_writeMsgWord, if_pos (by omega)]
    congr 2
    omega
  · rw [hbyte, readByte_writeMsgWord, if_neg]
    rintro ⟨hlo, hhi, hlt⟩
    exact ha ⟨a - (msgBase + 8 * k), by omega, by omega, by simp only [msgBase] at *; omega⟩

end Sys2Proof
end

section
/-! PROOF. The host port as a memory (20_memory.md): the address map, the rejected transactions, reads without a side effect, and the
interlock that keeps the host away from a running command. -/

namespace Sys2Proof

open Machine Claims

/-! ### The address map -/

/-- Register `n` of the block stands at offset `8 * n` (R31). -/
theorem targetAt_registerBlock {n : Nat} {g : Target} (h : registerBlock[n]? = some g) (c : Params) :
    targetAt c (8 * n) = some g := by
  obtain ⟨hn, -⟩ := List.getElem?_eq_some_iff.mp h
  have hlt : n < 16 := hn
  rw [targetAt, if_pos (by omega), Nat.mul_div_cancel_left n (by decide), h]

/-- An offset outside the register block and both buffers is reserved (R78). -/
theorem targetAt_eq_none {c : Params} {off : Nat} (hreg : 0x80 ≤ off)
    (hmsg : ¬(0x10000 ≤ off ∧ off < 0x10000 + 8 * ((c.bufCap + 7) / 8)))
    (hct : ¬(0x80000 ≤ off ∧ off < 0x80000 + 8 * c.bufCap)) : targetAt c off = none := by
  rw [targetAt, if_neg (by omega), if_neg hmsg, if_neg hct]

/-- Settles O18: the registers by their place in the block, the words by `targetAt_msg` and `targetAt_ct`; with BUF_CAP at most 65536
MSGBUF ends below CTBUF, so the rest is reserved. -/
theorem addressMapIsTheWindow : Obligations.AddressMapIsTheWindow := by
  intro c hcap
  have register : ∀ n {g}, registerBlock[n]? = some g → targetAt c (8 * n) = some g := fun _ _ h =>
    targetAt_registerBlock h c
  refine ⟨⟨register 0 rfl, register 1 rfl, register 2 rfl, register 3 rfl, register 4 rfl, register 5 rfl, register 6 rfl,
    register 7 rfl, register 8 rfl, register 9 rfl, register 10 rfl, register 11 rfl, register 12 rfl, register 13 rfl,
    register 14 rfl, register 15 rfl⟩, fun _ hk => targetAt_msg hk, fun _ hi => targetAt_ct hcap hi,
    fun off hlo hhi => ?_, fun off hlo hhi => ?_, fun off hlo => ?_⟩
  all_goals exact targetAt_eq_none (by omega) (by omega) (by omega)

/-! ### Rejected transactions -/

/-- A transaction that is not well formed, or whose offset is reserved, names nothing (R72, R73, R77). -/
theorem target_eq_none {c : Params} {t : Transaction} (h : t.wellFormed = false ∨ targetAt c t.off.toNat = none) :
    t.target c = none := by
  rw [Transaction.target]
  rcases h with h | h
  · rw [if_neg (by simp [h])]
  · rw [h, ite_self]

theorem wellFormed_read_eq_false {off : BitVec 20} {bytes : Nat} (h : bytes ≠ 8 ∨ off.toNat % 8 ≠ 0) :
    (Transaction.read off bytes).wellFormed = false := by
  rcases h with h | h <;> simp [Transaction.wellFormed, h]

theorem wellFormed_write_eq_false {off : BitVec 20} {bytes : Nat} {strobes : BitVec 8}
    (h : bytes ≠ 8 ∨ strobes ≠ 0xFF ∨ off.toNat % 8 ≠ 0) (v : Word) :
    (Transaction.write off bytes strobes v).wellFormed = false := by
  simp only [Transaction.wellFormed, Bool.and_eq_false_iff, decide_eq_false_iff_not, beq_eq_false_iff_ne]
  tauto

theorem transact_read_rejected {s : State} {off : BitVec 20} {bytes : Nat}
    (h : (Transaction.read off bytes).target s.cfg = none) : s.transact (.read off bytes) = s.respondFree .slverr := by
  simp only [State.transact, h]

theorem transact_write_rejected {s : State} {off : BitVec 20} {bytes : Nat} {strobes : BitVec 8} {v : Word}
    (h : (Transaction.write off bytes strobes v).target s.cfg = none) :
    s.transact (.write off bytes strobes v) = s.setPort { resp := .slverr, data := none } := by
  simp only [State.transact, h]

/-- Settles O19: each ground for rejection leaves the transaction without a target (`target_eq_none`). -/
theorem rejectedTransactionHasNoEffect : Obligations.RejectedTransactionHasNoEffect := by
  refine ⟨fun s off bytes h => ⟨_, _, transact_read_rejected (target_eq_none ?_)⟩,
    fun s off bytes strobes v h => transact_write_rejected (target_eq_none ?_)⟩
  · exact (or_assoc.mpr h).imp_left wellFormed_read_eq_false
  · have hgrounds : (bytes ≠ 8 ∨ strobes ≠ 0xFF ∨ off.toNat % 8 ≠ 0) ∨ targetAt s.cfg off.toNat = none := by
      simpa only [or_assoc] using h
    exact hgrounds.imp_left (wellFormed_write_eq_false · v)

/-! ### Reads -/

/-- Settles O20: `State.transact_read`. -/
theorem readsChangeOnlyThePort : Obligations.ReadsChangeOnlyThePort := State.transact_read

/-! ### The interlock -/

/-- The second state differs from the first only in what no command reads: STATUS but for ERR, IRQ_EN, and the response on the
port (R81). -/
inductive SameForUnit (s : State) : State → Prop where
  | mk (st : Status) (e : IrqEnable) (p : Option BusResponse) (herr : st.err = s.status.err) :
      SameForUnit s { s with status := st, irqEn := e, port := p }

/-- A transaction that takes no free value changes nothing else while a command runs (R46, R137). -/
theorem sameForUnit_transact {s : State} (hb : s.phase ≠ .idle) {x : Transaction} (hd : (s.transact x).draws = s.draws) :
    SameForUnit s (s.transact x) := by
  obtain ⟨u, r, d, hu, ht⟩ := transact_effect s x
  rw [ht] at hd ⊢
  obtain rfl : d = s.draws := hd
  cases hu with
  | none | status | irqEn | ignored => exact .mk _ _ _ rfl
  | accepted w hi | register r hi | message k v hi => exact absurd hi hb

/-- An operation after which the unit still cannot tell the two states apart. -/
def KeepsSame (f : State → State) : Prop := ∀ {s t : State}, SameForUnit s t → SameForUnit (f s) (f t)

/-! #### The operations over the state -/

theorem keepsSame_finish (c : ErrCode) : KeepsSame (·.finish c) := fun (.mk _ e p _) => .mk _ e p rfl

theorem keepsSame_raise (c : ErrCode) : KeepsSame (·.raise c) := by
  rintro s _ ⟨st, e, p, -⟩
  simp only [State.raise, State.notifyResource_eq]
  split <;> exact .mk _ e p rfl

theorem keepsSame_havocRes0 : KeepsSame State.havocRes0 := fun (.mk st e p herr) => .mk st e p herr

theorem keepsSame_havocKey : KeepsSame State.havocKey := fun (.mk st e p herr) => .mk st e p herr

theorem keepsSame_havocKeyPhase : KeepsSame State.havocKeyPhase := fun (.mk st e p herr) => .mk st e p herr

theorem keepsSame_havocCt (k : Nat) : KeepsSame (State.havocCt k) := by
  intro s t h
  induction k with
  | zero => exact h
  | succ k ih =>
    rw [State.havocCt, State.havocCt]
    generalize State.havocCt k s = u, State.havocCt k t = v at ih
    obtain ⟨st, e, p, herr⟩ := ih
    exact .mk st e p herr

theorem keepsSame_havocGenerate : KeepsSame State.havocGenerate :=
  fun (.mk st e p herr) => keepsSame_havocCt _ (keepsSame_havocKeyPhase (.mk st e p herr))

theorem keepsSame_encryptUnit (e n : Word) (i : Nat) : KeepsSame (State.encryptUnit e n i) :=
  fun (.mk st e p herr) => .mk st e p herr

theorem keepsSame_encryptUnits (e n : Word) (k : Nat) : KeepsSame (State.encryptUnits e n k) := by
  intro s t h
  induction k with
  | zero => exact h
  | succ k ih => exact keepsSame_encryptUnit e n k ih

theorem keepsSame_cipherPhase : KeepsSame State.cipherPhase := by
  rintro s _ ⟨st, e, p, herr⟩
  simp only [State.cipherPhase]
  split
  · exact keepsSame_raise .resource (.mk st e p herr)
  · exact keepsSame_finish .none (keepsSame_encryptUnits _ _ _ (.mk st e p herr))

/-! #### The commands -/

/-- Both answer a next state, and the two differ only in what no command reads. -/
inductive SameOutcome : Host.Outcome State Fault Refusal → Host.Outcome State Fault Refusal → Prop where
  | next {s t : State} (h : SameForUnit s t) : SameOutcome (.next s) (.next t)

theorem sameOutcome_checkFailed {havoc : State → State} (hh : KeepsSame havoc) {s t : State} (h : SameForUnit s t) :
    SameOutcome (s.checkFailed havoc) (t.checkFailed havoc) := by
  obtain ⟨st, e, p, herr⟩ := h
  refine .next ?_
  simp only [State.unconstrained]
  split
  · exact .mk _ e p rfl
  · split
    · exact .mk st e p herr
    · exact keepsSame_finish .none (hh (.mk st e p herr))

/-- No command reads what `SameForUnit` leaves open (30_encoding.md R104, 40_execution.md R134). -/
theorem sameOutcome_exec (i : Instr) {s t : State} (h : SameForUnit s t) : SameOutcome (exec i s) (exec i t) := by
  obtain ⟨st, e, p, herr⟩ := h
  cases i
  case gcd | invmod =>
    simp only [exec, execGcd, execInvmod, State.operandA, State.operandB, State.operandC]
    split
    · exact sameOutcome_checkFailed keepsSame_havocRes0 (.mk st e p herr)
    · split
      · exact sameOutcome_checkFailed keepsSame_havocRes0 (.mk st e p herr)
      · exact .next (.mk _ e p rfl)
  case mulmod | powmod | mrtest | encbyte =>
    simp only [exec, execMulmod, execPowmod, execMrtest, execEncbyte, State.operandA, State.operandB, State.operandC,
      State.operandByte, State.publicN, State.publicE]
    split
    · exact sameOutcome_checkFailed keepsSame_havocRes0 (.mk st e p herr)
    · exact .next (.mk _ e p rfl)
  case pnext =>
    simp only [exec, execPnext, State.cursor]
    split <;> exact .next (.mk _ e p rfl)
  case keyderive =>
    simp only [exec, execKeyderive, State.operandA, State.operandB]
    split
    · exact .next (.mk _ e p rfl)
    · exact sameOutcome_checkFailed keepsSame_havocKey (.mk st e p herr)
  case keygen =>
    simp only [exec, execKeygen, State.cursor]
    split
    · exact .next (.mk _ e p rfl)
    · exact .next (.mk _ e p rfl)
    · exact sameOutcome_checkFailed keepsSame_havocKeyPhase (.mk st e p herr)
  case encbuf =>
    simp only [exec, execEncbuf, State.messageLength, State.publicN, State.publicE]
    split
    · exact .next (keepsSame_raise .resource (.mk st e p herr))
    · split
      · exact sameOutcome_checkFailed (keepsSame_havocCt _) (.mk st e p herr)
      · exact .next (keepsSame_finish .none (keepsSame_encryptUnits _ _ _ (.mk st e p herr)))
  case generate =>
    simp only [exec, execGenerate, State.messageLength, State.cursor]
    split
    · exact sameOutcome_checkFailed keepsSame_havocGenerate (.mk st e p herr)
    · split
      · exact .next (keepsSame_cipherPhase (.mk st e p herr))
      · exact .next (.mk _ e p rfl)
      · exact sameOutcome_checkFailed keepsSame_havocGenerate (.mk st e p herr)

/-- Settles O31: the inputs by `State.transact_not_idle`, the completion by `sameForUnit_transact` and `sameOutcome_exec`. -/
theorem hostCannotReachARunningCommand : Obligations.HostCannotReachARunningCommand := by
  intro s x hbusy
  obtain ⟨c, hp⟩ := (isBusy_iff s).mp hbusy
  have hidle : s.phase ≠ .idle := by simp [hp]
  obtain ⟨hphase, hregs, hmem, -⟩ := State.transact_not_idle hidle x
  refine ⟨hregs, hmem, hphase, (s.transact_frame x).cfg, fun i u v hdraws hu hv => ?_⟩
  have hsame := sameOutcome_exec i (sameForUnit_transact hidle hdraws)
  rw [hu, hv] at hsame
  obtain ⟨⟨st, e, p, herr⟩⟩ := hsame
  exact ⟨rfl, rfl, rfl, herr⟩

end Sys2Proof
end

section
/-! PROOF. The command decoder and encoder (30_encoding.md R100 to R109): the two fields of a word determine it, OP selects a command
exactly in the range of the table, and both sides of the round trip are read off the fields. -/

namespace Sys2Proof

/-! ### The fields of a word -/

theorem rsvdField_append_opField (w : Word) : rsvdField w ++ opField w = w :=
  BitVec.extractLsb'_append_extractLsb' (w := 56) (len := 8)

theorem opField_toNat (w : Word) : (opField w).toNat = w.toNat % 256 := by
  simp [opField, BitVec.extractLsb'_toNat]

theorem rsvdField_eq_zero_iff (w : Word) : rsvdField w = 0 ↔ w.toNat / 256 = 0 := by
  have hw : w.toNat / 256 < 2 ^ 56 := by omega
  rw [BitVec.toNat_eq, rsvdField, BitVec.extractLsb'_toNat, Nat.shiftRight_eq_div_pow, Nat.mod_eq_of_lt hw]
  rfl

/-! ### The codes of the table -/

/-- The facts of `Laws.OpcodeRange`, over all commands. -/
theorem opcodeRange (i : Instr) : Laws.OpcodeRange.Statement i := by
  cases i with
  | gcd => exact Laws.OpcodeRange.gcd
  | mulmod => exact Laws.OpcodeRange.mulmod
  | powmod => exact Laws.OpcodeRange.powmod
  | mrtest => exact Laws.OpcodeRange.mrtest
  | pnext => exact Laws.OpcodeRange.pnext
  | invmod => exact Laws.OpcodeRange.invmod
  | keyderive => exact Laws.OpcodeRange.keyderive
  | keygen => exact Laws.OpcodeRange.keygen
  | encbyte => exact Laws.OpcodeRange.encbyte
  | encbuf => exact Laws.OpcodeRange.encbuf
  | generate => exact Laws.OpcodeRange.generate

@[simp] theorem instrOfOp_opcode (i : Instr) : instrOfOp (opcode i) = some i := by cases i <;> rfl

theorem instrOfOp_eq_some_iff {op : BitVec 8} {i : Instr} : instrOfOp op = some i ↔ op = opcode i :=
  ⟨opcode_of_instrOfOp, fun h => h ▸ instrOfOp_opcode i⟩

/-- The codes 0x01 … 0x0B, and no others, select a command (R102). -/
theorem exists_eq_opcode_iff (op : BitVec 8) : (∃ i, op = opcode i) ↔ 1 ≤ op.toNat ∧ op.toNat ≤ 11 := by
  constructor
  · rintro ⟨i, rfl⟩
    obtain ⟨-, -, hlow, hhigh⟩ := opcodeRange i
    exact ⟨hlow, hhigh⟩
  · intro hrange
    simp only [← instrOfOp_eq_some_iff]
    unfold instrOfOp
    split
    case h_12 => simp only [imp_false] at *; omega
    all_goals exact ⟨_, rfl⟩

/-! ### Decoding and encoding by the fields -/

/-- A word is the encoding of a command exactly when RSVD is 0 and OP is the command's code (R100). -/
theorem eq_encode_iff (w : Word) (i : Instr) : w = encode i ↔ rsvdField w = 0 ∧ opField w = opcode i := by
  constructor
  · rintro rfl
    obtain ⟨hrsvd, hop, -, -⟩ := opcodeRange i
    exact ⟨hrsvd, hop⟩
  · rintro ⟨hrsvd, hop⟩
    rw [← rsvdField_append_opField w, hrsvd, hop]
    rfl

/-- A word decodes to a command exactly when RSVD is 0 and OP is the command's code (R102, R103). -/
theorem decode_eq_command_iff (w : Word) (i : Instr) :
    decode w = .command i ↔ rsvdField w = 0 ∧ opField w = opcode i := by
  rw [← instrOfOp_eq_some_iff, decode]
  by_cases hrsvd : rsvdField w = 0
  · rw [if_pos hrsvd]
    cases instrOfOp (opField w) <;> simp [hrsvd]
  · rw [if_neg hrsvd]
    exact iff_of_false nofun fun h => hrsvd h.1

theorem decode_encode (i : Instr) : decode (encode i) = .command i :=
  (decode_eq_command_iff _ i).mpr ((eq_encode_iff _ i).mp rfl)

/-- The two kinds of `Decoded` exclude each other, and there is no third (R103). -/
theorem exists_illegal_iff (d : Decoded) : (∃ why, d = .illegal why) ↔ ¬∃ i, d = .command i := by
  cases d <;> simp

/-! ### The obligations -/

/-- Settles O2: both sides say that RSVD is 0 and OP is the command's code. -/
theorem everyCommandHasExactlyOneWord : Obligations.EveryCommandHasExactlyOneWord :=
  fun w i _ => (decode_eq_command_iff w i).trans (eq_encode_iff w i).symm

/-- Settles O3: RSVD is `w / 256` and OP is `w % 256`, which selects a command exactly in the range of the table. -/
theorem legalWordsAreTheTables : Obligations.LegalWordsAreTheTables := by
  refine fun w => ⟨?_, exists_illegal_iff (decode w)⟩
  simp only [decode_eq_command_iff, exists_and_left, exists_eq_opcode_iff, rsvdField_eq_zero_iff, opField_toNat]

/-- Settles O1: the eleven words are the encodings of the commands; the last has a reserved bit set (R105). -/
theorem tableWordsDecode : Obligations.TableWordsDecode :=
  ⟨decode_encode .gcd, decode_encode .mulmod, decode_encode .powmod, decode_encode .mrtest, decode_encode .pnext,
    decode_encode .invmod, decode_encode .keyderive, decode_encode .keygen, decode_encode .encbyte, decode_encode .encbuf,
    decode_encode .generate, by decide⟩

end Sys2Proof
end

section
/-! PROOF. The life cycle of a command (40_execution.md): acceptance, what a step is for each event, completion and the outcomes of a
command, the command that never completes, and reads while BUSY. -/

namespace Sys2Proof

open Machine Claims

/-! ### The unit's turn in each phase -/

section UnitTurn

variable {s : State}

theorem unitTurn_command {i : Instr} (hp : s.phase = .busy (.command i)) : unitTurn s = exec i s := by
  simp only [unitTurn, hp]

/-- An illegal word completes with `Error(3)`: the completion step and no diagnostic event (R145, R304). -/
theorem unitTurn_illegal (hp : s.phase = .busy .illegal) : unitTurn s = .next (failed s .illegalCmd s.draws) := by
  simp only [unitTurn, hp]
  rfl

theorem unitTurn_hung (hp : s.phase = .busy .hung) : unitTurn s = .next s := by
  simp only [unitTurn, hp]

end UnitTurn

/-! ### The step of each event -/

section Step

variable {s : State} (hc : s.cfg.wellFormed = true)
include hc

theorem step_bus {x : Transaction} (h : s.inputs.head? = some (.bus x)) : step s = .next (s.begin.transact x) := by
  simp only [step_eq_stepEvent hc, stepEvent, h]

theorem step_reset (h : s.inputs.head? = some .reset) : step s = .next s.begin.applyReset := by
  simp only [step_eq_stepEvent hc, stepEvent, h]

/-- With no event left, as with the unit's own, the unit has the turn (R130, R146). -/
theorem step_unit (h : s.inputs.head? = none ∨ s.inputs.head? = some .unit) : step s = unitTurn s.begin := by
  rcases h with h | h <;> simp only [step_eq_stepEvent hc, stepEvent, h]

theorem step_command {i : Instr} (hp : s.phase = .busy (.command i))
    (h : s.inputs.head? = none ∨ s.inputs.head? = some .unit) : step s = exec i s.begin :=
  (step_unit hc h).trans (unitTurn_command (by simp [hp]))

end Step

/-! ### Acceptance -/

theorem currentOf_command {w : Word} {i : Instr} (h : decode w = .command i) : currentOf w = .command i := by
  simp only [currentOf, h]

theorem currentOf_illegal {w : Word} {why : IllegalWord} (h : decode w = .illegal why) : currentOf w = .illegal := by
  simp only [currentOf, h]

/-- A write to CMD while IDLE is accepted (R131). -/
theorem transact_wr_cmd {s : State} (hi : s.phase = .idle) (w : Word) :
    s.transact (wr 0x00010 w) = (s.accept w).setPort okWrite :=
  transact_wr_register_idle (g := .cmd) (by decide) hi w

theorem decode_of_decodeTableWord {nbits n : Nat} {i : Instr} (h : decodeTableWord nbits n = some i) :
    decode (tableWord nbits n) = .command i := by
  unfold decodeTableWord at h
  split at h
  · next hd => cases h; exact hd
  · cases h

/-- Settles O4: `transact_wr_cmd`, the current command being `currentOf w`. -/
theorem acceptingWriteStartsTheCommand : Obligations.AcceptingWriteStartsTheCommand :=
  fun _ w hi => ⟨currentOf w, transact_wr_cmd hi w, fun _ => currentOf_command, fun _ => currentOf_illegal⟩

/-- Settles O5: `step_command` in the state itself, in the state after the accepting write, and in that of `withFetchWord`. -/
theorem stepRunsTheDecodedCommand : Obligations.StepRunsTheDecodedCommand := by
  refine ⟨fun s i hc hp hu => step_command hc hp hu, fun s w i rest hc hi hin hd => ?_, fun s n i hc hd => ?_, fun s => ?_⟩
  · have haccept : s.begin.transact (wr 0x00010 w) = (s.begin.accept w).setPort okWrite := transact_wr_cmd (by simp [hi]) w
    refine ⟨(s.begin.accept w).setPort okWrite, haccept ▸ step_bus hc (by simp [hin]), by simp, by simp, by simp,
      by simp [hin], ?_⟩
    exact step_command (by simpa using hc) (by simp [currentOf_command hd]) (.inr (by simp [hin]))
  · have hp : (s.withFetchWord 64 n).phase = .busy (.command i) :=
      congrArg Phase.busy (currentOf_command (decode_of_decodeTableWord hd))
    exact step_command (s := s.withFetchWord 64 n) hc hp (.inr rfl)
  · refine ⟨by simp, by simp, by simp, by simp, by simp, by simp, by simp, by simp, by simp, fun hdebug => ?_⟩
    rw [State.begin_eq]
    simp [hdebug]

/-- Settles O6: `step_bus`, `step_reset`, and `step_unit` where the unit has nothing to do. -/
theorem stepTakesTheNextEvent : Obligations.StepTakesTheNextEvent :=
  ⟨fun _ _ hc h => step_bus hc h, fun _ hc h => step_reset hc h,
    fun _ hc hp hu => (step_unit hc hu).trans (unitTurn_eq_of_not_busy (by simpa using hp))⟩

/-- Settles O7: `unitTurn_illegal` at the start of the step. -/
theorem illegalWordCompletesWithCodeThree : Obligations.IllegalWordCompletesWithCodeThree :=
  fun _ hc hp hu => (step_unit hc hu).trans (unitTurn_illegal (by simp [hp]))

/-! ### Liveness -/

/-- Settles O8: a transaction meets the interlock of a unit that is not IDLE, and the unit's turn does nothing (R142 (a)). -/
theorem hungCommandStaysBusyUntilReset : Obligations.HungCommandStaysBusyUntilReset := by
  intro s t hp h
  have hb : s.begin.phase = .busy .hung := by simp [hp]
  cases step_cases (wellFormed_of_step h) h with
  | bus x =>
    obtain ⟨hphase, hregs, hmem, herr, -⟩ := State.transact_not_idle (s := s.begin) (by simp [hp]) x
    exact .inr ⟨hphase.trans hb, by simpa using hregs, by simpa using hmem, by simpa using herr⟩
  | reset hr => exact .inl ⟨hr, rfl⟩
  | unit hu hturn =>
    cases (unitTurn_hung hb).symm.trans hturn
    exact .inr (by simp [hp])

/-- With ASSERT_EN = 1 no command hangs: each leaves BUSY and sets DONE (R136, R141). -/
theorem exec_completes {i : Instr} {s t : State} (ha : s.cfg.assertEn = true) (h : exec i s = .next t) :
    t.isBusy = false ∧ t.status.done = true := by
  cases exec_completion h with
  | finished e he hu => exact ⟨rfl, rfl⟩
  | locked ha' hu => exact ⟨rfl, rfl⟩
  | hung ha' => simp [ha'] at ha

/-- Settles O9: `step_command` at the empty list, and `exec_completes`. -/
theorem quietHostSeesCompletion : Obligations.QuietHostSeesCompletion := by
  intro s i hc ha hp hin
  obtain ⟨t, ht⟩ := exec_next i s.begin
  exact ⟨t, (step_command hc hp (.inl (by simp [hin]))).trans ht, exec_completes (by simpa using ha) ht⟩

/-! ### The outcomes of a command -/

/-- The completion of `raise E`, but for the diagnostic count (R310, R279). -/
theorem raise_eq (s : State) (e : ErrCode) : ∃ n, s.raise e = { s.finish e with dbg := n } := by
  rw [State.raise, State.notifyResource_eq]
  split
  · exact ⟨_, rfl⟩
  · exact ⟨s.dbg, rfl⟩

/-- The outcomes of R136 and R142 by what they leave of the state the command started in: only Success, and the cipher phase of
GENERATE with RESOURCE, complete from a state `u` that something was written to. -/
inductive ExecCase (i : Instr) (s : State) : State → Prop where
  | success (u : State) : ExecCase i s (u.finish .none)
  | error (e : ErrCode) (d : Nat) : ExecCase i s ((s.setDraws d).raise e)
  | fatal (d : Nat) : ExecCase i s (s.setDraws d).lock
  | hung (d : Nat) : ExecCase i s ((s.setDraws d).setPhase (.busy .hung))
  | keyKept (hi : i = .generate) (u : State) : ExecCase i s (u.raise .resource)

theorem execCase_checkFailed {i : Instr} {s t : State} {d : Nat} {havoc : State → State}
    (h : (s.setDraws d).checkFailed havoc = .next t) : ExecCase i s t := by
  rcases State.checkFailed_cases h with ⟨-, rfl⟩ | ⟨-, rfl | rfl⟩
  · exact .fatal d
  · exact .hung _
  · exact .success _

/-- A check before any free value is taken: the counter stands. -/
theorem execCase_check {i : Instr} {s t : State} {havoc : State → State} (h : s.checkFailed havoc = .next t) :
    ExecCase i s t := execCase_checkFailed (d := s.draws) h

theorem exec_cases {i : Instr} {s t : State} (h : exec i s = .next t) : ExecCase i s t := by
  cases i
  case gcd | invmod =>
    simp only [exec, execGcd, execInvmod] at h
    split at h
    · exact execCase_check h
    · split at h
      · exact execCase_check h
      · cases h; exact .success _
  case mulmod | powmod | mrtest | encbyte =>
    simp only [exec, execMulmod, execPowmod, execMrtest, execEncbyte] at h
    split at h
    · exact execCase_check h
    · cases h; exact .success _
  case pnext =>
    simp only [exec, execPnext] at h
    split at h <;> cases h
    · exact .success _
    · exact .error _ _
  case keyderive =>
    simp only [exec, execKeyderive] at h
    split at h
    · cases h; exact .success _
    · exact execCase_check h
  case keygen =>
    simp only [exec, execKeygen] at h
    split at h
    · cases h; exact .success _
    · cases h; exact .error _ _
    · exact execCase_checkFailed h
  case encbuf =>
    simp only [exec, execEncbuf] at h
    split at h
    · cases h; exact .error _ s.draws
    · split at h
      · exact execCase_check h
      · cases h; exact .success _
  case generate =>
    simp only [exec, execGenerate] at h
    split at h
    · exact execCase_check h
    · split at h
      · cases h
        rw [State.cipherPhase]
        split
        · exact .keyKept rfl _
        · exact .success _
      · cases h; exact .error _ _
      · exact execCase_checkFailed h

/-- Settles O15: an error and the fatal completion of `exec_cases` start from the state before the command. -/
theorem failedCommandWritesNothing : Obligations.FailedCommandWritesNothing := by
  intro i s t h hbusy herr hres
  cases exec_cases h with
  | success u => exact absurd rfl herr
  | error e d =>
    obtain ⟨n, hraise⟩ := raise_eq (s.setDraws d) e
    rw [hraise]
    exact ⟨rfl, State.readByte_congr rfl rfl⟩
  | fatal d => exact ⟨rfl, State.readByte_congr rfl rfl⟩
  | hung d => simp [State.isBusy] at hbusy
  | keyKept hi u =>
    obtain ⟨n, hraise⟩ := raise_eq u .resource
    exact absurd ⟨hi, by rw [hraise]; rfl⟩ hres

/-! ### Reads while BUSY -/

/-- While BUSY an accepted read of a hidden target returns the next free value (R137). -/
theorem transact_rd_hidden {s : State} {off : BitVec 20} {g : Target} (h : (rd off).target s.cfg = some g)
    (hb : s.isBusy = true) (hg : g.hiddenWhileBusy = true) :
    s.transact (rd off) = { s with port := okData (Config.freeWord s.draws), draws := s.draws + 1 } := by
  have hread : s.transact (rd off) = s.readTarget g := by
    rw [rd] at h ⊢
    simp only [State.transact, h]
  rw [hread, State.readTarget, if_pos (by simp [hb, hg])]
  rfl

/-- The result, key and cursor registers by their offsets (R31), and the words of CTBUF (R78), are all hidden while BUSY. -/
theorem exists_hidden_target {c : Params} {off : BitVec 20} (hcap : c.bufCap ≤ 65536)
    (h : off ∈ [0x00040#20, 0x00048, 0x00050, 0x00058, 0x00060, 0x00068, 0x00070] ∨
      (0x80000 ≤ off.toNat ∧ off.toNat < 0x80000 + 8 * c.bufCap ∧ off.toNat % 8 = 0)) :
    ∃ g, (rd off).target c = some g ∧ g.hiddenWhileBusy = true := by
  rcases h with h | ⟨hlo, hhi, ha⟩
  · have register : ∀ {off g}, RegisterAt off g → g.hiddenWhileBusy = true →
        ∃ g, (rd off).target c = some g ∧ g.hiddenWhileBusy = true :=
      fun hreg hg => ⟨_, target_rd hreg.1 (targetAt_register hreg c), hg⟩
    simp only [List.mem_cons, List.not_mem_nil, or_false] at h
    rcases h with rfl | rfl | rfl | rfl | rfl | rfl | rfl
    · exact register (g := .res0) (by decide) rfl
    · exact register (g := .res1) (by decide) rfl
    · exact register (g := .keyN) (by decide) rfl
    · exact register (g := .keyPhi) (by decide) rfl
    · exact register (g := .keyE) (by decide) rfl
    · exact register (g := .keyD) (by decide) rfl
    · exact register (g := .pcur) (by decide) rfl
  · obtain ⟨i, hi⟩ : ∃ i, off.toNat = ctBase + 8 * i := ⟨(off.toNat - ctBase) / 8, by simp only [ctBase]; omega⟩
    exact ⟨.ct i, target_rd ha (hi ▸ targetAt_ct hcap (by simp only [ctBase] at hi; omega)), rfl⟩

/-- Settles O21: `transact_rd_hidden` at the targets of `exists_hidden_target`. -/
theorem busyReadsOfResultsAreFree : Obligations.BusyReadsOfResultsAreFree := by
  intro s off hb hcap h
  obtain ⟨g, htarget, hg⟩ := exists_hidden_target hcap h
  exact transact_rd_hidden htarget hb hg

end Sys2Proof
end

section
/-! PROOF. The greatest common divisor (41_gcd.md): a success that writes RES0 alone, the outcomes of a failed check (R141, R142) for any
command with its write set, and the completion of GCD. -/

namespace Sys2Proof

open Machine Claims

/-! ### A success that writes RES0 alone -/

theorem finish_setRes0 (s : State) (v : Word) :
    (s.setRes0 v).finish .none = succeeded s { s.regs with res0 := v } s.draws := rfl

/-! ### A failed check -/

/-- `u` is `s` but for free values in a write set: registers as `wrote` says, and CT[0 … units−1] (R142 (b)). -/
def InWriteSet (s : State) (wrote : Regs → Prop) (units : Nat) (u : State) : Prop :=
  ∃ r m d, u = { s with regs := r, mem := m, draws := d } ∧ wrote r ∧
    ∀ a, ¬(0x80000 ≤ a ∧ a < 0x80000 + 8 * units) → u.readByte a = s.readByte a

/-- Free values in registers alone leave every byte. -/
theorem inWriteSet_regs {s : State} {wrote : Regs → Prop} {units : Nat} {r : Regs} (hr : wrote r) (d : Nat) :
    InWriteSet s wrote units { s with regs := r, draws := d } :=
  ⟨r, s.mem, d, rfl, hr, fun _ _ => State.readByte_congr rfl rfl _⟩

theorem inWriteSet_havocRes0 (s : State) (d : Nat) : InWriteSet s (OnlyRes0 s) 0 (s.setDraws d).havocRes0 :=
  inWriteSet_regs ⟨_, rfl⟩ _

theorem InWriteSet.unconstrained_finish {s u : State} {wrote : Regs → Prop} {units : Nat}
    (h : InWriteSet s wrote units u) : Unconstrained s (u.finish .none) wrote units := by
  obtain ⟨r, m, d, rfl, hr, hbytes⟩ := h
  exact .inr ⟨r, m, d, rfl, hr, fun a ha => (State.readByte_congr rfl rfl a).trans (hbytes a ha)⟩

/-- A failed check, after `d` free values, is the invalid argument of R303 with the write set that `havoc` keeps to. -/
theorem invalidArgument_checkFailed {s : State} {havoc : State → State} {wrote : Regs → Prop} {units : Nat}
    (hh : ∀ d, InWriteSet s wrote units (havoc (s.setDraws d))) (d : Nat) :
    InvalidArgument s ((s.setDraws d).checkFailed havoc) wrote units := by
  refine ⟨fun ha => ⟨d, State.checkFailed_enforced havoc ha⟩, fun ha => ⟨_, State.checkFailed_skipped havoc ha, ?_⟩⟩
  rcases State.unconstrained_cases havoc (s.setDraws d) with hhung | hdone
  · exact hhung ▸ .inl ⟨_, rfl⟩
  · exact hdone ▸ (hh _).unconstrained_finish

/-- A failed check of a command that writes RES0 alone. -/
theorem invalidArgument_havocRes0 (s : State) : InvalidArgument s (s.checkFailed State.havocRes0) (OnlyRes0 s) 0 :=
  invalidArgument_checkFailed (inWriteSet_havocRes0 s) s.draws

/-! ### GCD -/

/-- R160: both operands are checked before RES0 is written. -/
theorem exec_gcd_zero {s : State} (h : s.regs.opa.toNat = 0 ∨ s.regs.opb.toNat = 0) :
    exec .gcd s = s.checkFailed State.havocRes0 := by
  rw [exec, execGcd]
  by_cases ha : s.regs.opa.toNat = 0
  · rw [if_pos ha]
  · rw [if_neg ha, if_pos (h.resolve_left ha)]

theorem exec_gcd_nonzero {s : State} (ha : s.regs.opa.toNat ≠ 0) (hb : s.regs.opb.toNat ≠ 0) :
    exec .gcd s = .next (succeeded s
      { s.regs with res0 := BitVec.ofNat 64 (Nat.gcd s.regs.opa.toNat s.regs.opb.toNat) } s.draws) := by
  rw [exec, execGcd, if_neg ha, if_neg hb, gcdUnit_eq_gcd, finish_setRes0]

/-- Settles O36: `exec_gcd_nonzero` through the datapath's `gcdUnit_eq_gcd`, and `exec_gcd_zero` with the outcomes of a failed check. -/
theorem gcdWritesTheGreatestCommonDivisor : Obligations.GcdWritesTheGreatestCommonDivisor :=
  ⟨decode_encode .gcd, fun s => ⟨exec_gcd_nonzero, fun h => exec_gcd_zero h ▸ invalidArgument_havocRes0 s⟩⟩

end Sys2Proof
end

section
/-! PROOF. Modular multiplication and exponentiation (42_modarith.md): the doubling multiplier of R181 by its loop invariant, and the
completions of MULMOD and POWMOD. -/

namespace Sys2Proof

open Machine Claims

/-! ### The doubling multiplier -/

section Doubling

variable {a m x y : Word}

theorem toNat_reduceOnce (h : x.toNat < 2 * m.toNat) : (reduceOnce x m).toNat = x.toNat % m.toNat := by
  rw [reduceOnce]
  split
  · next hle =>
    rw [BitVec.toNat_sub_of_le hle, Nat.mod_eq_sub_mod (BitVec.le_def.mp hle), Nat.mod_eq_of_lt (by omega)]
  · next hlt => rw [Nat.mod_eq_of_lt (by simpa [BitVec.le_def] using hlt)]

/-- Two residues of a modulus in range add without wrapping, so one subtraction reduces their sum (R181). -/
theorem toNat_reduceOnce_add (hm : m.toNat ≤ 2 ^ 63 - 1) (hx : x.toNat < m.toNat) (hy : y.toNat < m.toNat) :
    (reduceOnce (x + y) m).toNat = (x.toNat + y.toNat) % m.toNat := by
  have hsum : (x + y).toNat = x.toNat + y.toNat := BitVec.toNat_add_of_lt (by omega)
  rw [toNat_reduceOnce (by omega), hsum]

/-- One turn of R181's loop: twice the accumulator, and `a` where the bit is set. -/
theorem toNat_doublingTurn (hm : m.toNat ≤ 2 ^ 63 - 1) (ha : a.toNat < m.toNat) (hx : x.toNat < m.toNat) (bit : Bool) :
    (if bit then reduceOnce (reduceOnce (x + x) m + a) m else reduceOnce (x + x) m).toNat =
      (2 * x.toNat + a.toNat * bit.toNat) % m.toNat := by
  have hdouble : (reduceOnce (x + x) m).toNat = 2 * x.toNat % m.toNat := by
    rw [toNat_reduceOnce_add hm hx hx, Nat.two_mul]
  cases bit
  · simpa using hdouble
  · have hlt : (reduceOnce (x + x) m).toNat < m.toNat := hdouble ▸ Nat.mod_lt _ (by omega)
    simp [toNat_reduceOnce_add hm hlt ha, hdouble]

/-- The invariant of R181's loop: with `k` bits of `b` to go, the accumulator counts `2 ^ k` times. -/
theorem toNat_doublingLoop (hm : m.toNat ≤ 2 ^ 63 - 1) (ha : a.toNat < m.toNat) (b : Word) (k : Nat) {r : Word}
    (hr : r.toNat < m.toNat) :
    (doublingLoop a b m k r).toNat = (r.toNat * 2 ^ k + a.toNat * (b.toNat % 2 ^ k)) % m.toNat := by
  induction k generalizing r with
  | zero => simp [doublingLoop, Nat.mod_one, Nat.mod_eq_of_lt hr]
  | succ k ih =>
    have hturn := toNat_doublingTurn hm ha hr (b.getLsbD k)
    have hlt := hturn ▸ Nat.mod_lt _ (Nat.zero_lt_of_lt hr)
    have hbits : r.toNat * 2 ^ (k + 1) + a.toNat * (b.toNat % 2 ^ (k + 1)) =
        (2 * r.toNat + a.toNat * (b.getLsbD k).toNat) * 2 ^ k + a.toNat * (b.toNat % 2 ^ k) := by
      rw [Nat.mod_pow_succ, ← Nat.toNat_testBit, BitVec.testBit_toNat]
      ring
    rw [doublingLoop, ih hlt, hturn, hbits]
    exact ((Nat.mod_modEq _ _).mul_right _).add_right _

end Doubling

/-- Settles O38: `toNat_doublingLoop` over all 64 bits, from the accumulator 0 and `a` reduced. -/
theorem doublingMultiplierIsExact : Obligations.DoublingMultiplierIsExact := by
  intro a b m hpos hm
  have hred : (a % m).toNat = a.toNat % m.toNat := BitVec.toNat_umod
  have ha : (a % m).toNat < m.toNat := hred ▸ Nat.mod_lt _ hpos
  rw [mulModDoubling, toNat_doublingLoop (r := 0) hm ha b 64 hpos, hred, Nat.mod_eq_of_lt b.isLt]
  simp [Nat.mod_mul_mod]

/-! ### The datapaths -/

theorem mulModUnit_inRange {m : Word} (hm : inRange m.toNat) (a b : Word) (d : Nat) :
    mulModUnit a b m d = (BitVec.ofNat 64 (a.toNat * b.toNat % m.toNat), d) := by
  rw [mulModUnit, if_pos hm, mulModExact]

/-- R186: exponent 0 gives 1, whatever the modulus. -/
theorem powModUnit_zero {e : Word} (he : e.toNat = 0) (x m : Word) (d : Nat) : powModUnit x e m d = (1, d) := by
  rw [powModUnit, if_pos he]

theorem powModUnit_inRange {e m : Word} (he : e.toNat ≠ 0) (hm : inRange m.toNat) (x : Word) (d : Nat) :
    powModUnit x e m d = (BitVec.ofNat 64 (x.toNat ^ e.toNat % m.toNat), d) := by
  rw [powModUnit, if_neg he, if_pos hm, powModExact_eq he e.isLt]

/-! ### MULMOD and POWMOD -/

section Completion

variable {s : State}

theorem exec_mulmod_zero (h : s.regs.opc.toNat = 0) : exec .mulmod s = s.checkFailed State.havocRes0 := if_pos h

theorem exec_mulmod_nonzero (h : s.regs.opc.toNat ≠ 0) :
    exec .mulmod s = .next (succeeded s
      { s.regs with res0 := (mulModUnit s.regs.opa s.regs.opb s.regs.opc s.draws).1 }
      (mulModUnit s.regs.opa s.regs.opb s.regs.opc s.draws).2) := if_neg h

theorem exec_powmod_zero (h : s.regs.opc.toNat = 0) : exec .powmod s = s.checkFailed State.havocRes0 := if_pos h

theorem exec_powmod_nonzero (h : s.regs.opc.toNat ≠ 0) :
    exec .powmod s = .next (succeeded s
      { s.regs with res0 := (powModUnit s.regs.opa s.regs.opb s.regs.opc s.draws).1 }
      (powModUnit s.regs.opa s.regs.opb s.regs.opc s.draws).2) := if_neg h

end Completion

/-- Settles O37: `exec_mulmod_nonzero` with the datapath in range (`mulModUnit_inRange`), and `exec_mulmod_zero` with the outcomes of a
failed check. -/
theorem mulmodWritesTheExactProduct : Obligations.MulmodWritesTheExactProduct := by
  refine ⟨decode_encode .mulmod, fun s => ⟨fun hpos hm => ?_, fun hbig => ?_, fun h0 => ?_⟩⟩
  · rw [exec_mulmod_nonzero (by omega), mulModUnit_inRange ⟨hpos, hm⟩]
  · exact ⟨_, _, exec_mulmod_nonzero (by omega)⟩
  · exact exec_mulmod_zero h0 ▸ invalidArgument_havocRes0 s

/-- Settles O39: `exec_powmod_nonzero` with the datapath at exponent 0 (`powModUnit_zero`) and in range (`powModUnit_inRange`), and
`exec_powmod_zero` with the outcomes of a failed check. -/
theorem powmodWritesTheExactPower : Obligations.PowmodWritesTheExactPower := by
  refine ⟨decode_encode .powmod, fun s => ⟨fun he hne => ?_, fun he hpos hm => ?_, fun _ hbig => ?_, fun h0 => ?_⟩⟩
  · rw [exec_powmod_nonzero hne, powModUnit_zero he]
  · rw [exec_powmod_nonzero (by omega), powModUnit_inRange he ⟨hpos, hm⟩]
  · exact ⟨_, _, exec_powmod_nonzero (by omega)⟩
  · exact exec_powmod_zero h0 ▸ invalidArgument_havocRes0 s

end Sys2Proof
end

section
/-! PROOF. Primality (43_primality.md): the verdict of R201 is the strong probable prime test of R204 to the nine witnesses, every prime in
range passes it, and the completions of MRTEST. -/

namespace Sys2Proof

open Machine Claims

/-! ### Strong probable primes -/

section Decomposition

variable {n a s t s' t' : Nat}

theorem le_of_two_pow_mul_eq (ht' : t' % 2 = 1) (h : 2 ^ s * t = 2 ^ s' * t') : s ≤ s' := by
  have hcop : Nat.Coprime (2 ^ s) t' := (Nat.coprime_two_left.mpr (Nat.odd_iff.mpr ht')).pow_left s
  exact (Nat.pow_dvd_pow_iff_le_right (by omega)).mp (hcop.dvd_of_dvd_mul_right ⟨t, h.symm⟩)

/-- There is one way to write a number as a power of two times an odd number. -/
theorem two_pow_mul_odd_unique (ht : t % 2 = 1) (ht' : t' % 2 = 1) (h : 2 ^ s * t = 2 ^ s' * t') : s = s' ∧ t = t' := by
  obtain rfl : s = s' := Nat.le_antisymm (le_of_two_pow_mul_eq ht' h) (le_of_two_pow_mul_eq ht h.symm)
  exact ⟨rfl, Nat.eq_of_mul_eq_mul_left (by positivity) h⟩

/-- By uniqueness the test has one decomposition to try, and any decomposition at hand decides it. -/
theorem strongProbablePrime_iff (he : n - 1 = 2 ^ s * t) (ht : t % 2 = 1) :
    StrongProbablePrime n a ↔ a ^ t % n = 1 ∨ ∃ r < s, a ^ (2 ^ r * t) % n = n - 1 := by
  refine ⟨fun h => h s t he ht, fun h s' t' he' ht' => ?_⟩
  obtain ⟨rfl, rfl⟩ := two_pow_mul_odd_unique ht ht' (he.symm.trans he')
  exact h

end Decomposition

/-! ### The verdict -/

/-- R201's decomposition of an even number is a power of two, at least 2, times an odd number. -/
theorem oddPart_even {m : Nat} (h0 : 0 < m) (hlt : m < 2 ^ 64) (heven : m % 2 = 0) :
    m = 2 ^ (oddPart 64 m 0).2 * (oddPart 64 m 0).1 ∧ (oddPart 64 m 0).1 % 2 = 1 ∧ 1 ≤ (oddPart 64 m 0).2 := by
  obtain ⟨hodd, -, hmul⟩ := oddPart_spec (s := 0) h0 hlt
  rw [Nat.sub_zero] at hmul
  refine ⟨hmul.symm, hodd, Nat.pos_of_ne_zero fun hzero => ?_⟩
  rw [hzero, pow_zero, Nat.one_mul] at hmul
  omega

/-- The witness loop of R201 is the strong probable prime test to every witness below `n`. -/
theorem millerRabin_iff {n : Nat} (h3 : 3 ≤ n) (hlt : n < 2 ^ 63) (hodd : n % 2 = 1) :
    millerRabin n = true ↔ ∀ a ∈ witnessSet, a < n → StrongProbablePrime n a := by
  obtain ⟨he, ht, hs⟩ := oddPart_even (m := n - 1) (by omega) (by omega) (by omega)
  have hle : (oddPart 64 (n - 1) 0).1 ≤ n - 1 := Nat.le_of_dvd (by omega) ⟨_, he.trans (Nat.mul_comm _ _)⟩
  have hone : ∀ a, witnessPasses n (oddPart 64 (n - 1) 0).1 (oddPart 64 (n - 1) 0).2 a = true ↔
      (a < n → StrongProbablePrime n a) := fun a => by
    rw [witnessPasses_iff (by omega) (by omega) hs, strongProbablePrime_iff he ht, ← not_lt, ← imp_iff_not_or]
  simp only [millerRabin, List.all_eq_true, hone]
  rfl

/-- Where the verdict is no free bit (R201), it is the acceptance of R204. -/
theorem verdict_iff {n : Nat} (h2 : 2 ≤ n) (hr : n % 2 = 0 ∨ n < 2 ^ 63) : (verdict n 0).1 = true ↔ Accepted n := by
  unfold verdict Accepted
  split
  · next htwo => simp [htwo]
  · next htwo =>
    split
    · next heven => simp [htwo, heven]
    · next hodd =>
      rw [if_neg (by omega), millerRabin_iff (by omega) (by omega) (by omega)]
      simp [htwo, show n % 2 = 1 by omega]

/-- Where the verdict is no free bit, it takes no free value (R134). -/
theorem verdict_eq {n : Nat} (hr : n % 2 = 0 ∨ n < 2 ^ 63) (d : Nat) : verdict n d = ((verdict n 0).1, d) := by
  rcases hr with heven | hlt
  · by_cases htwo : n = 2
    · simp [verdict, htwo]
    · simp [verdict, htwo, heven]
  · exact verdict_draws hlt d

/-! ### Primes -/

/-- Where 1 has no square roots but 1 and −1, the repeated squares of `x` reach 1 only from `x = 1` or through −1. -/
theorem eq_one_or_pow_eq_neg_one {R : Type*} [Ring R] [NoZeroDivisors R] {x : R} {s : Nat} (h : x ^ 2 ^ s = 1) :
    x = 1 ∨ ∃ r < s, x ^ 2 ^ r = -1 := by
  induction s with
  | zero => exact .inl (by simpa using h)
  | succ s ih =>
    rw [pow_succ, pow_mul, sq, mul_self_eq_one_iff] at h
    rcases h with hone | hneg
    · exact (ih hone).imp_right fun ⟨r, hr, hpow⟩ => ⟨r, by omega, hpow⟩
    · exact .inr ⟨s, by omega, hneg⟩

/-- An equation modulo `n`, read as the unit's remainder. -/
theorem mod_eq_of_cast_eq {n x b : Nat} (hb : b < n) (h : (x : ZMod n) = b) : x % n = b := by
  rw [(ZMod.natCast_eq_natCast_iff' x b n).mp h, Nat.mod_eq_of_lt hb]

theorem witnessSet_pos {a : Nat} (ha : a ∈ witnessSet) : 0 < a := by
  revert a
  decide

/-- Fermat's theorem gives `a ^ (n − 1) = 1` modulo a prime, and a prime modulus has no zero divisors. -/
theorem strongProbablePrime_of_prime {n a : Nat} (hp : n.Prime) (h0 : 0 < a) (hlt : a < n) : StrongProbablePrime n a := by
  intro s t he _
  have : Fact n.Prime := ⟨hp⟩
  have ha : (a : ZMod n) ≠ 0 := by
    rw [Ne, ZMod.natCast_eq_zero_iff]
    exact Nat.not_dvd_of_pos_of_lt h0 hlt
  have hfermat : ((a : ZMod n) ^ t) ^ 2 ^ s = 1 := by
    rw [← pow_mul, Nat.mul_comm, ← he, ZMod.pow_card_sub_one_eq_one ha]
  have hneg : ((n - 1 : Nat) : ZMod n) = -1 := by simp [Nat.cast_sub hp.one_le]
  rcases eq_one_or_pow_eq_neg_one hfermat with hone | ⟨r, hr, hpow⟩
  · exact .inl (mod_eq_of_cast_eq hp.one_lt (by simpa using hone))
  · refine .inr ⟨r, hr, mod_eq_of_cast_eq (Nat.sub_lt hp.pos Nat.one_pos) ?_⟩
    rw [hneg, ← hpow, Nat.cast_pow, ← pow_mul, Nat.mul_comm]

/-- Every prime is accepted (R204). -/
theorem accepted_of_prime {n : Nat} (hp : n.Prime) : Accepted n :=
  hp.eq_two_or_odd.imp_right fun hodd => ⟨hodd, fun _ ha => strongProbablePrime_of_prime hp (witnessSet_pos ha)⟩

/-! ### MRTEST -/

@[simp] theorem verdictWord_true : verdictWord true = 1 := rfl
@[simp] theorem verdictWord_false : verdictWord false = 0 := rfl

theorem verdictWord_zero_or_one (v : Bool) : verdictWord v = 0 ∨ verdictWord v = 1 := by cases v <;> simp

section Completion

variable {s : State}

theorem exec_mrtest_small (h : s.regs.opa.toNat < 2) : exec .mrtest s = s.checkFailed State.havocRes0 := if_pos h

theorem exec_mrtest_verdict (h : 2 ≤ s.regs.opa.toNat) :
    exec .mrtest s = .next (succeeded s
      { s.regs with res0 := verdictWord (verdict s.regs.opa.toNat s.draws).1 } (verdict s.regs.opa.toNat s.draws).2) :=
  if_neg (Nat.not_lt.mpr h)

/-- Where the verdict is no free bit, MRTEST takes no free value. -/
theorem exec_mrtest_decided (h : 2 ≤ s.regs.opa.toNat) (hr : s.regs.opa.toNat % 2 = 0 ∨ s.regs.opa.toNat < 2 ^ 63) :
    exec .mrtest s = .next (succeeded s
      { s.regs with res0 := verdictWord (verdict s.regs.opa.toNat 0).1 } s.draws) := by
  rw [exec_mrtest_verdict h, verdict_eq hr]

theorem exec_mrtest_of_accepted (h2 : 2 ≤ s.regs.opa.toNat) (hr : s.regs.opa.toNat % 2 = 0 ∨ s.regs.opa.toNat < 2 ^ 63)
    (h : Accepted s.regs.opa.toNat) : exec .mrtest s = .next (succeeded s { s.regs with res0 := 1 } s.draws) := by
  rw [exec_mrtest_decided h2 hr, (verdict_iff h2 hr).mpr h, verdictWord_true]

theorem exec_mrtest_of_not_accepted (h2 : 2 ≤ s.regs.opa.toNat)
    (hr : s.regs.opa.toNat % 2 = 0 ∨ s.regs.opa.toNat < 2 ^ 63) (h : ¬Accepted s.regs.opa.toNat) :
    exec .mrtest s = .next (succeeded s { s.regs with res0 := 0 } s.draws) := by
  rw [exec_mrtest_decided h2 hr, Bool.eq_false_iff.mpr (mt (verdict_iff h2 hr).mp h), verdictWord_false]

end Completion

/-- Settles O40: the verdict is the acceptance of R204 wherever it is no free bit (`verdict_iff`); at or above 2^63 it is one of two words,
and below 2 the check fails (`exec_mrtest_small`). -/
theorem mrtestWritesTheVerdict : Obligations.MrtestWritesTheVerdict := by
  refine ⟨decode_encode .mrtest, fun s => ⟨fun h2 hr => ?_, fun hbig _ => ?_, fun hsmall => ?_⟩⟩
  · exact ⟨exec_mrtest_of_accepted h2 hr, exec_mrtest_of_not_accepted h2 hr⟩
  · exact ⟨_, _, verdictWord_zero_or_one _, exec_mrtest_verdict (by omega)⟩
  · exact exec_mrtest_small hsmall ▸ invalidArgument_havocRes0 s

/-- Settles O43: by Fermat's theorem a prime is accepted (`accepted_of_prime`), and below 2^63 MRTEST says so. -/
theorem everyPrimeInRangePasses : Obligations.EveryPrimeInRangePasses :=
  fun _ hp hlt => exec_mrtest_of_accepted hp.two_le (.inr hlt) (accepted_of_prime hp)

/-- Settles O41: the primes by O43, and of each composite the datapath's own verdict. -/
theorem mrtestKeepsTheListedVerdicts : Obligations.MrtestKeepsTheListedVerdicts := by
  have hprime : ∀ n ∈ [2, 3, 5, 7, 11, 13, 17, 19, 23, 29, 31, 97], Nat.Prime n ∧ n < 2 ^ 63 := by norm_num
  have hcomposite : ∀ n ∈ [4, 6, 8, 9, 91, 221, 341], 2 ≤ n ∧ n < 2 ^ 63 ∧ (verdict n 0).1 = false := by decide
  refine fun s => ⟨fun h => ?_, fun h => ?_⟩
  · exact everyPrimeInRangePasses s (hprime _ h).1 (hprime _ h).2
  · obtain ⟨h2, hlt, hv⟩ := hcomposite _ h
    rw [exec_mrtest_decided h2 (.inr hlt), hv, verdictWord_false]

/-- Settles O42: the verdict on 3825123056546413051 by running the datapath. -/
theorem mrtestAcceptsAComposite : Obligations.MrtestAcceptsAComposite := by
  have hv : (verdict 3825123056546413051 0).1 = true := by decide
  refine ⟨by norm_num, fun s h => ?_⟩
  rw [exec_mrtest_decided (by omega) (by omega), h, hv, verdictWord_true]

end Sys2Proof
end

section
/-! PROOF. The prime source (44_prime_source.md): what NEXTPRIME answers from any cursor in both modes, the completion of PNEXT, and the
order of its results. -/

namespace Sys2Proof

open Machine Claims

/-! ### The search -/

section Search

variable {c d p c1 d1 : Nat}

/-- What the first turn of a search did that found something: it took its candidate, or rejected it and went on (R222). -/
theorem searchDown_succ_found (h : searchDown (c + 1) d = .found p c1 d1) :
    (p = c + 1 ∧ (verdict p d).1 = true) ∨
      ((verdict (c + 1) d).1 = false ∧ ∃ d2, searchDown c d2 = .found p c1 d1) := by
  rw [searchDown] at h
  split at h
  · cases h
  · split at h
    · next hv => cases h; exact .inl ⟨rfl, hv⟩
    · next hv => exact .inr ⟨Bool.eq_false_iff.mpr hv, _, h⟩

theorem largestAccepted_succ (h : LargestAccepted c p) (hc : ¬Accepted (c + 1)) : LargestAccepted (c + 1) p := by
  obtain ⟨h2, hle, hp, hmax⟩ := h
  refine ⟨h2, by omega, hp, fun q hlt hq => ?_⟩
  rcases Nat.eq_or_lt_of_le hq with rfl | hq
  · exact hc
  · exact hmax q hlt (by omega)

/-- Below 2^63 no verdict is free, so the search finds the largest accepted candidate (R201, R222). -/
theorem searchDown_found_largest (hc : c < 2 ^ 63) (h : searchDown c d = .found p c1 d1) : LargestAccepted c p := by
  induction c generalizing d with
  | zero => cases h
  | succ c ih =>
    obtain ⟨h2, hle, -⟩ := searchDown_found h
    have hverdict : (verdict (c + 1) d).1 = true ↔ Accepted (c + 1) := by
      rw [verdict_draws hc]
      exact verdict_iff (by omega) (.inr hc)
    rcases searchDown_succ_found h with ⟨rfl, hv⟩ | ⟨hv, d2, hrest⟩
    · exact ⟨h2, hle, hverdict.mp hv, fun q hlt hq => by omega⟩
    · exact largestAccepted_succ (ih (by omega) hrest) (by simp [← hverdict, hv])

theorem odd_of_verdict (h2 : 2 < p) (h : (verdict p d).1 = true) : p % 2 = 1 := by
  by_contra heven
  simp [verdict, show p ≠ 2 by omega, show p % 2 = 0 by omega] at h

/-- From 2^63 on the verdict of an odd candidate is free: the search ends at one of them or goes on below 2^63 (R201, R222). -/
theorem searchDown_found_high (hc : 2 ^ 63 ≤ c) (h : searchDown c d = .found p c1 d1) :
    (2 ^ 63 ≤ p ∧ p ≤ c ∧ p % 2 = 1) ∨ LargestAccepted (2 ^ 63 - 1) p := by
  induction c generalizing d with
  | zero => cases h
  | succ c ih =>
    rcases searchDown_succ_found h with ⟨rfl, hv⟩ | ⟨-, d2, hrest⟩
    · exact .inl ⟨hc, Nat.le_refl _, odd_of_verdict (by omega) hv⟩
    · by_cases hhigh : 2 ^ 63 ≤ c
      · exact (ih hhigh hrest).imp_left fun ⟨hlow, hle, hodd⟩ => ⟨hlow, by omega, hodd⟩
      · obtain hlast : c = 2 ^ 63 - 1 := by omega
        exact .inr (hlast ▸ searchDown_found_largest (by omega) hrest)

end Search

/-! ### NEXTPRIME -/

section NextPrime

variable {src : PrimeSource} {c p c1 d d1 : Nat}

/-- Whatever NEXTPRIME finds, R221 and R222 allow; in TABLE mode at a cursor that is no index too (log 9). -/
theorem nextPrimeIs_of_found (h : nextPrime src c d = .found p c1 d1) : NextPrimeIs src c p c1 := by
  cases src with
  | table entries =>
    rw [nextPrime, tableNext] at h
    split at h
    · next w hw =>
      cases h
      exact ⟨rfl, w.isLt, fun v hv => congrArg BitVec.toNat (Option.some.inj (hw.symm.trans hv))⟩
    · next hnone =>
      cases h
      exact ⟨rfl, BitVec.isLt _, fun v hv => by simp [hnone] at hv⟩
  | search seed =>
    obtain ⟨-, -, hc1⟩ := searchDown_found h
    refine ⟨hc1, ?_⟩
    split
    · next hlow => exact searchDown_found_largest hlow h
    · next hhigh => exact searchDown_found_high (by omega) h

/-- Below 2 the search ends at once, with no free value taken (R222). -/
theorem nextPrime_exhausted (h : Exhausted src c) (d : Nat) : nextPrime src c d = .exhausted d := by
  cases src with
  | table entries => exact h.elim
  | search seed =>
    have hc : c < 2 := h
    interval_cases c <;> rfl

theorem nextPrime_found (h : ¬Exhausted src c) (d : Nat) :
    ∃ p c1 d1, nextPrime src c d = .found p c1 d1 ∧ NextPrimeIs src c p c1 := by
  cases hn : nextPrime src c d with
  | found p c1 d1 => exact ⟨p, c1, d1, rfl, nextPrimeIs_of_found hn⟩
  | exhausted d1 =>
    cases src with
    | table entries =>
      rw [nextPrime, tableNext] at hn
      split at hn <;> cases hn
    | search seed => exact absurd ((nextPrime_exhausted_iff seed c d).mp ⟨d1, hn⟩) h

end NextPrime

/-! ### PNEXT -/

section Pnext

variable {s : State}

theorem exec_pnext_exhausted (h : Exhausted s.cfg.source s.regs.pcur.toNat) :
    exec .pnext s = .next (failed s .exhausted s.draws) := by
  simp only [exec, execPnext, nextPrime_exhausted h]
  rfl

theorem exec_pnext_found {p c1 d : Nat} (h : nextPrime s.cfg.source s.regs.pcur.toNat s.draws = .found p c1 d) :
    exec .pnext s = .next (succeeded s
      { s.regs with res0 := BitVec.ofNat 64 p, pcur := BitVec.ofNat 64 c1 } d) := by
  simp only [exec, execPnext, h]
  rfl

end Pnext

/-- R220 from every cursor, in TABLE mode also from one that is no index of the table (log 9). -/
theorem pnextSequence (s : State) : PnextSequence s := by
  refine ⟨exec_pnext_exhausted, fun h => ?_⟩
  obtain ⟨p, c1, d, hfound, hnext⟩ := nextPrime_found h s.draws
  exact ⟨p, c1, d, hnext, exec_pnext_found hfound⟩

/-- Settles O44: `pnextSequence`, which no hypothesis on the cursor limits. -/
theorem pnextWritesTheNextPrime : Obligations.PnextWritesTheNextPrime :=
  ⟨decode_encode .pnext, fun s _ => pnextSequence s⟩

/-! ### SEARCH mode: the results decrease -/

/-- A PNEXT that succeeds in SEARCH mode gives a result at or below the cursor and leaves the cursor below the result (R222). -/
theorem exec_pnext_search {s t : State} {seed : Word} (hs : s.cfg.source = .search seed) (h : exec .pnext s = .next t)
    (herr : t.status.err = .none) :
    t.regs.res0.toNat ≤ s.regs.pcur.toNat ∧ t.regs.pcur.toNat < t.regs.res0.toNat := by
  cases hn : nextPrime s.cfg.source s.regs.pcur.toNat s.draws with
  | found p c1 d =>
    cases (exec_pnext_found hn).symm.trans h
    rw [hs] at hn
    obtain ⟨h2, hle, rfl⟩ := searchDown_found hn
    have hlt := s.regs.pcur.isLt
    simp only [succeeded, BitVec.toNat_ofNat]
    omega
  | exhausted d =>
    simp only [exec, execPnext, hn] at h
    cases h
    cases herr

/-- Settles O45: the second result is at or below the cursor that the first PNEXT left, which is below the first result. -/
theorem searchResultsStrictlyDecrease : Obligations.SearchResultsStrictlyDecrease := by
  intro s t u v seed hs ht hterr hu hcursor hv hverr
  obtain ⟨hle, -⟩ := exec_pnext_search hu hv hverr
  obtain ⟨-, hlt⟩ := exec_pnext_search hs ht hterr
  exact Nat.lt_of_le_of_lt (hcursor ▸ hle) hlt

/-! ### TABLE mode: the results cycle -/

section Table

variable {s : State} {entries : List Word}

/-- PNEXT at an index of the table (R221): the entry there, and the cursor advanced with the wrap. -/
theorem exec_pnext_index (hs : s.cfg.source = .table entries) (hlen : entries.length ≤ 2 ^ 64)
    (hi : s.regs.pcur.toNat < entries.length) :
    ∃ t, exec .pnext s = .next t ∧ t.cfg = s.cfg ∧ entries[s.regs.pcur.toNat]? = some t.regs.res0 ∧
      t.regs.pcur.toNat = (s.regs.pcur.toNat + 1) % entries.length ∧ t.status.err = .none := by
  have hw := List.getElem?_eq_getElem hi
  have hfound : nextPrime s.cfg.source s.regs.pcur.toNat s.draws =
      .found entries[s.regs.pcur.toNat].toNat ((s.regs.pcur.toNat + 1) % entries.length) s.draws := by
    simp only [hs, nextPrime, tableNext, hw]
  have hlt := Nat.mod_lt (s.regs.pcur.toNat + 1) (Nat.zero_lt_of_lt hi)
  exact ⟨_, exec_pnext_found hfound, rfl, by simp [succeeded, hw],
    (BitVec.toNat_ofNat _ _).trans (Nat.mod_eq_of_lt (by omega)), rfl⟩

theorem pnextTimes_succ {k : Nat} {t : State} (h : pnextTimes k s = .next t) : pnextTimes (k + 1) s = exec .pnext t := by
  simp only [pnextTimes, h]

/-- Where k successive PNEXT commands leave the cursor of TABLE mode (R224). -/
theorem pnextTimes_cursor (hs : s.cfg.source = .table entries) (hlen : entries.length ≤ 2 ^ 64)
    (hi : s.regs.pcur.toNat < entries.length) (k : Nat) :
    ∃ t, pnextTimes k s = .next t ∧ t.cfg = s.cfg ∧ t.regs.pcur.toNat = (s.regs.pcur.toNat + k) % entries.length := by
  induction k with
  | zero => exact ⟨s, rfl, rfl, (Nat.mod_eq_of_lt hi).symm⟩
  | succ k ih =>
    obtain ⟨t, htimes, htcfg, htcursor⟩ := ih
    obtain ⟨u, hexec, hucfg, -, hucursor, -⟩ :=
      exec_pnext_index (htcfg ▸ hs) hlen (htcursor ▸ Nat.mod_lt _ (Nat.zero_lt_of_lt hi))
    refine ⟨u, (pnextTimes_succ htimes).trans hexec, hucfg.trans htcfg, ?_⟩
    rw [hucursor, htcursor, Nat.mod_add_mod, Nat.add_assoc]

end Table

/-- Settles O46: one more PNEXT (`exec_pnext_index`) from where the first k left the cursor (`pnextTimes_cursor`); an entry is a prime
by R12. -/
theorem tableResultsCycle : Obligations.TableResultsCycle := by
  intro s entries k hwf hs hi
  obtain ⟨-, -, hsource⟩ := (params_wellFormed_iff s.cfg).mp hwf
  obtain ⟨-, hlen, hprime, -⟩ := (wellFormed_table_iff entries).mp (hs ▸ hsource)
  obtain ⟨t, htimes, hcfg, hcursor⟩ := pnextTimes_cursor hs (by omega) hi k
  obtain ⟨u, hexec, -, hentry, hnext, herr⟩ :=
    exec_pnext_index (hcfg ▸ hs) (by omega) (hcursor ▸ Nat.mod_lt _ (Nat.zero_lt_of_lt hi))
  have hp := hprime _ (List.mem_of_getElem? hentry)
  refine ⟨u, (pnextTimes_succ htimes).trans hexec, hcursor ▸ hentry, ?_, herr, ?_, hp⟩
  · rw [hnext, hcursor, Nat.mod_add_mod, Nat.add_assoc]
  · exact fun hzero => hp.ne_zero (by simp [hzero])

end Sys2Proof
end

section
/-! PROOF. The key phase (45_key_deriver.md): the checks of KD and its exact results, the two draws of R256, and the completion of KEYGEN
from every cursor. -/

namespace Sys2Proof

open Machine Claims

/-! ### KD -/

section DeriveKey

variable {p q : Nat}

theorem deriveKey_of_kdAccepts (h : KdAccepts p q) : deriveKey p q = some (deriveFrom p q) := by
  obtain ⟨hp, hq, hne, hwidth, hphi⟩ := h
  rw [deriveKey, if_neg hp, if_neg hq, if_neg hne, if_neg (by omega), if_neg (by omega)]

theorem deriveKey_of_not_kdAccepts (h : ¬KdAccepts p q) : deriveKey p q = none := by
  simp only [deriveKey, ite_eq_left_iff]
  intro hp hq hne hwidth hphi
  exact absurd ⟨hp, hq, hne, by omega, by omega⟩ h

/-- φ − 1 is coprime to φ ≥ 3, so the exponent scan ends below φ, and its exponent has an inverse (R246 to R250). -/
theorem keyFacts_deriveFrom (h : KdAccepts p q) : KeyFacts p q (deriveFrom p q).e (deriveFrom p q).d := by
  obtain ⟨-, -, -, -, hphi⟩ := h
  simp only [deriveFrom]
  generalize hk : (p - 1) * (q - 1) = phi at hphi
  have hlast : Nat.gcd (2 + (phi - 3)) phi = 1 := by
    obtain ⟨k, rfl⟩ : ∃ k, phi = 2 + k + 1 := ⟨phi - 3, by omega⟩
    simp
  obtain ⟨hlow, hhigh, hcop, hleast⟩ := exponentScan_spec (fuel := phi) (by omega) hlast
  have hlt : exponentScan phi phi 2 < phi := by omega
  obtain ⟨hd1, hd2, hinverse⟩ :=
    inverseUnit_spec (a := exponentScan phi phi 2) (m := phi) (by omega) (by rwa [Nat.mod_eq_of_lt hlt])
  exact ⟨⟨hlow, by rwa [hk]⟩, by rwa [hk], by rwa [hk], ⟨hd1, by rwa [hk]⟩, by rwa [hk]⟩

end DeriveKey

/-! ### The two draws -/

section KeyPhase

variable {src : PrimeSource} {c d p c1 d1 q c2 d2 : Nat}

theorem keyPhase_exhausted_first (h : Exhausted src c) : keyPhase src c d = .exhausted d := by
  simp only [keyPhase, nextPrime_exhausted h]

theorem keyPhase_exhausted_second (h1 : nextPrime src c d = .found p c1 d1) (h : Exhausted src c1) :
    keyPhase src c d = .exhausted d1 := by
  simp only [keyPhase, h1, nextPrime_exhausted h]

theorem keyPhase_derived (h1 : nextPrime src c d = .found p c1 d1) (h2 : nextPrime src c1 d1 = .found q c2 d2)
    (h : KdAccepts p q) : keyPhase src c d = .derived p q c2 (deriveFrom p q) d2 := by
  simp only [keyPhase, h1, h2, deriveKey_of_kdAccepts h]

theorem keyPhase_invalid (h1 : nextPrime src c d = .found p c1 d1) (h2 : nextPrime src c1 d1 = .found q c2 d2)
    (h : ¬KdAccepts p q) : keyPhase src c d = .invalid d2 := by
  simp only [keyPhase, h1, h2, deriveKey_of_not_kdAccepts h]

end KeyPhase

/-! ### KEYGEN -/

section Keygen

variable {s : State} {d : Nat}

theorem exec_keygen_exhausted (h : keyPhase s.cfg.source s.regs.pcur.toNat s.draws = .exhausted d) :
    exec .keygen s = .next (failed s .exhausted d) := by
  simp only [exec, execKeygen, h]
  rfl

theorem exec_keygen_derived {p q c2 : Nat}
    (h : keyPhase s.cfg.source s.regs.pcur.toNat s.draws = .derived p q c2 (deriveFrom p q) d) :
    exec .keygen s = .next (succeeded s (keyRegs s.regs p q c2 (deriveFrom p q).e (deriveFrom p q).d) d) := by
  simp only [exec, execKeygen, h]
  rfl

theorem exec_keygen_invalid (h : keyPhase s.cfg.source s.regs.pcur.toNat s.draws = .invalid d) :
    exec .keygen s = (s.setDraws d).checkFailed State.havocKeyPhase := by
  simp only [exec, execKeygen, h]

theorem inWriteSet_havocKeyPhase (s : State) (d : Nat) : InWriteSet s (OnlyKeyPhase s) 0 (s.setDraws d).havocKeyPhase :=
  inWriteSet_regs ⟨_, _, _, _, _, _, _, rfl⟩ _

end Keygen

/-- R256 from every cursor, in TABLE mode also from one that is no index of the table (log 9). -/
theorem keygenSequence (s : State) : KeygenSequence s := by
  refine ⟨fun hx => exec_keygen_exhausted (keyPhase_exhausted_first hx), fun hx => ?_⟩
  obtain ⟨p, c1, d1, hp, hpnext⟩ := nextPrime_found hx s.draws
  refine ⟨p, c1, hpnext, fun hx1 => ⟨d1, exec_keygen_exhausted (keyPhase_exhausted_second hp hx1)⟩, fun hx1 => ?_⟩
  obtain ⟨q, c2, d2, hq, hqnext⟩ := nextPrime_found hx1 d1
  refine ⟨q, c2, hqnext, fun hkd => ?_, fun hkd => ?_⟩
  · exact ⟨_, _, d2, keyFacts_deriveFrom hkd, exec_keygen_derived (keyPhase_derived hp hq hkd)⟩
  · rw [exec_keygen_invalid (keyPhase_invalid hp hq hkd)]
    exact invalidArgument_checkFailed (inWriteSet_havocKeyPhase s) d2

/-- Settles O60: `pnextSequence` and `keygenSequence` hold from every cursor. -/
theorem cursorOutsideTheTableTakesAFreeEntry : Obligations.CursorOutsideTheTableTakesAFreeEntry :=
  fun s _ _ _ => ⟨pnextSequence s, keygenSequence s⟩

end Sys2Proof
end

section
/-! PROOF. The commands of the key deriver (45_key_deriver.md): INVMOD, KEYDERIVE and KEYGEN with their exact results, and why two draws of
the prime source in a row differ (R257). -/

namespace Sys2Proof

open Machine Claims

/-! ### INVMOD -/

section Invmod

variable {s : State}

/-- R240: the modulus, then the gcd is checked, before RES0 is written. -/
theorem exec_invmod_invalid
    (h : s.regs.opc.toNat < 2 ∨ Nat.gcd (s.regs.opa.toNat % s.regs.opc.toNat) s.regs.opc.toNat ≠ 1) :
    exec .invmod s = s.checkFailed State.havocRes0 := by
  rw [exec, execInvmod, gcdUnit_eq_gcd]
  by_cases hm : s.regs.opc.toNat < 2
  · rw [if_pos hm]
  · rw [if_neg hm, if_pos (h.resolve_left hm)]

theorem exec_invmod_invertible (hm : 2 ≤ s.regs.opc.toNat)
    (hc : Nat.gcd (s.regs.opa.toNat % s.regs.opc.toNat) s.regs.opc.toNat = 1) :
    exec .invmod s = .next (succeeded s
      { s.regs with res0 := BitVec.ofNat 64 (inverseUnit s.regs.opa.toNat s.regs.opc.toNat) } s.draws) := by
  rw [exec, execInvmod, gcdUnit_eq_gcd, if_neg (Nat.not_lt.mpr hm), if_neg (not_not.mpr hc), finish_setRes0]

end Invmod

/-- Settles O47: the datapath's inverse is the one of `inverseUnit_spec`. -/
theorem invmodWritesTheInverse : Obligations.InvmodWritesTheInverse := by
  refine ⟨decode_encode .invmod, fun s => ⟨fun hm hc => ?_, fun h => exec_invmod_invalid h ▸ invalidArgument_havocRes0 s⟩⟩
  obtain ⟨hlow, hhigh, hinverse⟩ := inverseUnit_spec hm hc
  exact ⟨_, hlow, hhigh, hinverse, exec_invmod_invertible hm hc⟩

/-! ### KEYDERIVE -/

section Keyderive

variable {s : State}

theorem exec_keyderive_accepted (h : KdAccepts s.regs.opa.toNat s.regs.opb.toNat) :
    exec .keyderive s = .next ((s.setKey (deriveFrom s.regs.opa.toNat s.regs.opb.toNat)).finish .none) := by
  simp only [exec, execKeyderive, deriveKey_of_kdAccepts h]

theorem exec_keyderive_rejected (h : ¬KdAccepts s.regs.opa.toNat s.regs.opb.toNat) :
    exec .keyderive s = s.checkFailed State.havocKey := by
  simp only [exec, execKeyderive, deriveKey_of_not_kdAccepts h]

theorem inWriteSet_havocKey (s : State) (d : Nat) : InWriteSet s (OnlyKey s) 0 (s.setDraws d).havocKey :=
  inWriteSet_regs ⟨_, _, _, _, rfl⟩ _

end Keyderive

/-- Settles O48: the record of `deriveFrom` has the facts of R246 by `keyFacts_deriveFrom`. -/
theorem keyderiveWritesTheKeyMaterial : Obligations.KeyderiveWritesTheKeyMaterial := by
  refine ⟨decode_encode .keyderive, fun s => ⟨fun h => ?_, fun h => ?_⟩⟩
  · exact ⟨_, _, keyFacts_deriveFrom h, exec_keyderive_accepted h⟩
  · exact exec_keyderive_rejected h ▸ invalidArgument_checkFailed (inWriteSet_havocKey s) s.draws

/-! ### KEYGEN -/

/-- Settles O49: `keygenSequence`, which no hypothesis on the cursor limits. -/
theorem keygenFollowsItsSequence : Obligations.KeygenFollowsItsSequence :=
  ⟨decode_encode .keygen, fun s _ => keygenSequence s⟩

section Determined

variable {src : PrimeSource} {c d p c1 d1 : Nat}

/-- NEXTPRIME at an index of the table takes no free value (R221). -/
theorem nextPrime_index {entries : List Word} (hc : c < entries.length) (d : Nat) :
    nextPrime (.table entries) c d = .found entries[c].toNat ((c + 1) % entries.length) d := by
  simp only [nextPrime, tableNext, List.getElem?_eq_getElem hc]

/-- Below 2^63 a search takes no free value (R201, R134). -/
theorem searchDown_found_draws (hc : c < 2 ^ 63) (h : searchDown c d = .found p c1 d1) : d1 = d := by
  induction c with
  | zero => cases h
  | succ c ih =>
    rw [searchDown, verdict_draws hc] at h
    split at h
    · cases h
    · split at h
      · cases h; rfl
      · exact ih (by omega) h

theorem largestAccepted_unique {q : Nat} (hp : LargestAccepted c p) (hq : LargestAccepted c q) : p = q := by
  obtain ⟨-, hple, hpacc, hpmax⟩ := hp
  obtain ⟨-, hqle, hqacc, hqmax⟩ := hq
  rcases Nat.lt_trichotomy p q with hlt | heq | hlt
  · exact absurd hqacc (hpmax q hlt hqle)
  · exact heq
  · exact absurd hpacc (hqmax p hlt hple)

/-- At an index of the table, or below 2^63 in SEARCH mode, no free value is involved: NEXTPRIME gives what R221 and R222 say. -/
theorem nextPrime_of_nextPrimeIs (hi : IsIndex src c) (hlow : ∀ seed, src = .search seed → c < 2 ^ 63)
    (h : NextPrimeIs src c p c1) (d : Nat) : nextPrime src c d = .found p c1 d := by
  cases src with
  | table entries =>
    have hc := hi entries rfl
    obtain ⟨rfl, -, hentry⟩ := h
    rw [nextPrime_index hc, hentry _ (List.getElem?_eq_getElem hc)]
  | search seed =>
    have hc := hlow seed rfl
    obtain ⟨rfl, hlargest⟩ := h
    rw [if_pos hc] at hlargest
    have hstart : ¬Exhausted (.search seed) c := by
      obtain ⟨h2, hle, -⟩ := hlargest
      exact Nat.not_lt.mpr (h2.trans hle)
    obtain ⟨q, c1, d1, hfound, -⟩ := nextPrime_found hstart d
    obtain rfl := largestAccepted_unique (searchDown_found_largest hc hfound) hlargest
    obtain rfl := searchDown_found_draws hc hfound
    obtain ⟨-, -, rfl⟩ := searchDown_found hfound
    exact hfound

/-- The cursor after a draw is an index again, and stays below 2^63 in SEARCH mode (R221, R222, R45). -/
theorem cursor_of_nextPrimeIs (hi : IsIndex src c) (hlow : ∀ seed, src = .search seed → c < 2 ^ 63)
    (h : NextPrimeIs src c p c1) : IsIndex src c1 ∧ ∀ seed, src = .search seed → c1 < 2 ^ 63 := by
  cases src with
  | table entries =>
    obtain ⟨rfl, -⟩ := h
    refine ⟨?_, nofun⟩
    rintro _ ⟨rfl⟩
    exact Nat.mod_lt _ (Nat.zero_lt_of_lt (hi entries rfl))
  | search seed =>
    have hc := hlow seed rfl
    obtain ⟨rfl, hlargest⟩ := h
    rw [if_pos hc] at hlargest
    obtain ⟨-, hle, -⟩ := hlargest
    exact ⟨nofun, fun _ _ => by omega⟩

end Determined

/-- Settles O50: both draws are determined (`nextPrime_of_nextPrimeIs`) and leave the counter of free values as it was. -/
theorem keygenCompletes : Obligations.KeygenCompletes := by
  intro s p c1 q c2 hi hlow hp hq hkd
  obtain ⟨hi1, hlow1⟩ := cursor_of_nextPrimeIs hi hlow hp
  have hfirst := nextPrime_of_nextPrimeIs hi hlow hp s.draws
  have hsecond := nextPrime_of_nextPrimeIs hi1 hlow1 hq s.draws
  exact ⟨_, _, keyFacts_deriveFrom hkd, exec_keygen_derived (keyPhase_derived hfirst hsecond hkd)⟩

/-! ### Two draws in a row -/

section Consecutive

variable {src : PrimeSource} {c d p c1 d1 q c2 d2 : Nat}

/-- Of a table of two entries or more, the index after `c` is another one, across the wrap too. -/
theorem succ_mod_ne {n : Nat} (hn : 2 ≤ n) (hc : c < n) : (c + 1) % n ≠ c := by
  rcases Nat.lt_or_ge (c + 1) n with hlt | hge
  · rw [Nat.mod_eq_of_lt hlt]
    omega
  · obtain rfl : n = c + 1 := by omega
    rw [Nat.mod_self]
    omega

/-- R257: the entries of a table are distinct (R12), and a search goes on below what it found (R222). -/
theorem consecutive_draws_ne (hwf : src.wellFormed = true) (hi : IsIndex src c)
    (h1 : nextPrime src c d = .found p c1 d1) (h2 : nextPrime src c1 d1 = .found q c2 d2) : p ≠ q := by
  cases src with
  | table entries =>
    obtain ⟨hlen, -, -, hnodup⟩ := (wellFormed_table_iff entries).mp hwf
    have hc := hi entries rfl
    rw [nextPrime_index hc] at h1
    cases h1
    rw [nextPrime_index (Nat.mod_lt _ (by omega))] at h2
    cases h2
    intro heq
    exact succ_mod_ne hlen hc (hnodup.getElem_inj_iff.mp (BitVec.eq_of_toNat_eq heq)).symm
  | search seed =>
    obtain ⟨hp, -, rfl⟩ := searchDown_found h1
    obtain ⟨-, hq, -⟩ := searchDown_found h2
    omega

/-- What a draw gives fits its registers, and is at least 2 (R221, R222, R12). -/
theorem nextPrime_range (hwf : src.wellFormed = true) (hi : IsIndex src c) (h : nextPrime src c d = .found p c1 d1) :
    2 ≤ p ∧ IsIndex src c1 ∧ (c < 2 ^ 64 → p < 2 ^ 64 ∧ c1 < 2 ^ 64) := by
  cases src with
  | table entries =>
    obtain ⟨hlen, hmax, hprime, -⟩ := (wellFormed_table_iff entries).mp hwf
    have hc := hi entries rfl
    rw [nextPrime_index hc] at h
    cases h
    have hlt := Nat.mod_lt (c + 1) (show 0 < entries.length by omega)
    refine ⟨(hprime _ (List.getElem_mem hc)).two_le, ?_, fun _ => ⟨BitVec.isLt _, by omega⟩⟩
    rintro _ ⟨rfl⟩
    exact hlt
  | search seed =>
    obtain ⟨h2, hle, rfl⟩ := searchDown_found h
    exact ⟨h2, nofun, fun _ => by omega⟩

/-- Of the checks of KD only the width of p·q and φ ≥ 3 are left for two distinct values from 2 up; φ < 3 is {2, 3} (R246, R257). -/
theorem not_kdAccepts_of_distinct (hp : 2 ≤ p) (hq : 2 ≤ q) (hne : p ≠ q) (h : ¬KdAccepts p q) :
    2 ^ 64 - 1 < p * q ∨ (p = 2 ∧ q = 3) ∨ (p = 3 ∧ q = 2) := by
  by_contra hnot
  obtain ⟨a, rfl⟩ := Nat.exists_eq_add_of_le' hp
  obtain ⟨b, rfl⟩ := Nat.exists_eq_add_of_le' hq
  have hphi : 3 ≤ (a + 1) * (b + 1) := by
    rcases Nat.lt_or_ge (a + b) 2 with hsmall | hlarge
    · omega
    · nlinarith
  exact h ⟨by omega, by omega, hne, by omega, hphi⟩

/-- The two draws as RES0 and RES1, or two successive RES0, hold them. -/
theorem consecutive_words_ne (hwf : src.wellFormed = true) (hi : IsIndex src c) (hc : c < 2 ^ 64)
    (h1 : nextPrime src c d = .found p c1 d1) (h2 : nextPrime src c1 d1 = .found q c2 d2) :
    BitVec.ofNat 64 p ≠ BitVec.ofNat 64 q := by
  obtain ⟨-, hi1, hbound1⟩ := nextPrime_range hwf hi h1
  obtain ⟨hp, hc1⟩ := hbound1 hc
  obtain ⟨-, -, hbound2⟩ := nextPrime_range hwf hi1 h2
  obtain ⟨hq, -⟩ := hbound2 hc1
  intro heq
  apply consecutive_draws_ne hwf hi h1 h2
  have htoNat := congrArg BitVec.toNat heq
  rwa [BitVec.toNat_ofNat, BitVec.toNat_ofNat, Nat.mod_eq_of_lt hp, Nat.mod_eq_of_lt hq] at htoNat

end Consecutive

section Committed

variable {s t : State}

/-- A PNEXT that succeeds is a draw of the prime source (R220). -/
theorem exec_pnext_success (h : exec .pnext s = .next t) (herr : t.status.err = .none) :
    ∃ p c1 d, nextPrime s.cfg.source s.regs.pcur.toNat s.draws = .found p c1 d ∧
      t = succeeded s { s.regs with res0 := BitVec.ofNat 64 p, pcur := BitVec.ofNat 64 c1 } d := by
  cases hn : nextPrime s.cfg.source s.regs.pcur.toNat s.draws with
  | found p c1 d =>
    cases (exec_pnext_found hn).symm.trans h
    exact ⟨p, c1, d, rfl, rfl⟩
  | exhausted d =>
    simp only [exec, execPnext, hn] at h
    cases h
    cases herr

/-- A key is derived from two draws (R256). -/
theorem draws_of_keyPhase_derived {src : PrimeSource} {c d p q c2 d2 : Nat} {k : KeyMaterial}
    (h : keyPhase src c d = .derived p q c2 k d2) :
    ∃ c1 d1, nextPrime src c d = .found p c1 d1 ∧ nextPrime src c1 d1 = .found q c2 d2 := by
  rw [keyPhase] at h
  split at h
  · cases h
  · next hfirst =>
    split at h
    · cases h
    · next hsecond =>
      split at h <;> cases h
      exact ⟨_, _, hfirst, hsecond⟩

/-- With ASSERT_EN = 1 a failed check, after `d` free values, shows neither Success nor RESOURCE (R141, R300). -/
theorem err_of_checkFailed {havoc : State → State} {d : Nat} (ha : s.cfg.assertEn = true)
    (h : (s.setDraws d).checkFailed havoc = .next t) : ¬(t.status.err = .none ∨ t.status.err = .resource) := by
  cases (State.checkFailed_enforced (s := s.setDraws d) havoc ha).symm.trans h
  exact not_or.mpr ⟨nofun, nofun⟩

/-- The cipher phase writes no register (R281, R283). -/
theorem cipherPhase_regs (s : State) : s.cipherPhase.regs = s.regs := by
  rw [State.cipherPhase]
  split
  · obtain ⟨n, hraise⟩ := raise_eq s .resource
    rw [hraise]
    rfl
  · exact (State.encryptUnits_frame _ _ _ s).regs

/-- With ASSERT_EN = 1 a KEYGEN or GENERATE that ends with Success or RESOURCE has committed its key phase (R256, R281, R283). -/
theorem exec_keyPhase_committed {i : Instr} (hk : i = .keygen ∨ i = .generate) (ha : s.cfg.assertEn = true)
    (h : exec i s = .next t) (herr : t.status.err = .none ∨ t.status.err = .resource) :
    ∃ p q c2 k d, keyPhase s.cfg.source s.regs.pcur.toNat s.draws = .derived p q c2 k d ∧
      t.regs = (s.commitKeyPhase p q c2 k d).regs := by
  rcases hk with rfl | rfl
  · simp only [exec, execKeygen] at h
    split at h
    · next hphase => cases h; exact ⟨_, _, _, _, _, hphase, rfl⟩
    · cases h; exact absurd herr (not_or.mpr ⟨nofun, nofun⟩)
    · exact absurd herr (err_of_checkFailed ha h)
  · simp only [exec, execGenerate] at h
    split at h
    · exact absurd herr (err_of_checkFailed (d := s.draws) ha h)
    · split at h
      · next hphase => cases h; exact ⟨_, _, _, _, _, hphase, cipherPhase_regs _⟩
      · cases h; exact absurd herr (not_or.mpr ⟨nofun, nofun⟩)
      · exact absurd herr (err_of_checkFailed ha h)

/-- The second PNEXT draws from the cursor and the counter of free values that the first one left. -/
theorem exec_pnext_twice_ne {u : State} (hwf : s.cfg.source.wellFormed = true)
    (hi : IsIndex s.cfg.source s.regs.pcur.toNat) (ht : exec .pnext s = .next t) (hterr : t.status.err = .none)
    (hu : exec .pnext t = .next u) (huerr : u.status.err = .none) : u.regs.res0 ≠ t.regs.res0 := by
  obtain ⟨p, c1, d1, h1, rfl⟩ := exec_pnext_success ht hterr
  obtain ⟨q, c2, d2, h2, rfl⟩ := exec_pnext_success hu huerr
  obtain ⟨-, -, hbound⟩ := nextPrime_range hwf hi h1
  obtain ⟨-, hc1⟩ := hbound s.regs.pcur.isLt
  simp only [succeeded, BitVec.toNat_ofNat, Nat.mod_eq_of_lt hc1] at h2
  exact (consecutive_words_ne hwf hi s.regs.pcur.isLt h1 h2).symm

theorem committed_primes_ne {p q c2 d : Nat} {k : KeyMaterial} (hwf : s.cfg.source.wellFormed = true)
    (hi : IsIndex s.cfg.source s.regs.pcur.toNat)
    (h : keyPhase s.cfg.source s.regs.pcur.toNat s.draws = .derived p q c2 k d) :
    (s.commitKeyPhase p q c2 k d).regs.res0 ≠ (s.commitKeyPhase p q c2 k d).regs.res1 := by
  obtain ⟨c1, d1, h1, h2⟩ := draws_of_keyPhase_derived h
  exact consecutive_words_ne hwf hi s.regs.pcur.isLt h1 h2

theorem source_wellFormed {c : Params} (h : c.wellFormed = true) : c.source.wellFormed = true := by
  obtain ⟨-, -, hsource⟩ := (params_wellFormed_iff c).mp h
  exact hsource

end Committed

/-- Settles O51: each clause is about two draws in a row (`consecutive_draws_ne`), which PNEXT, KEYGEN and GENERATE put in registers. -/
theorem consecutiveDrawsAreDistinct : Obligations.ConsecutiveDrawsAreDistinct := by
  refine ⟨?_, ?_, ?_⟩
  · exact fun s t u hwf hi => exec_pnext_twice_ne (source_wellFormed hwf) hi
  · intro i s t hk hwf ha hi ht herr
    obtain ⟨p, q, c2, k, d, hphase, hregs⟩ := exec_keyPhase_committed hk ha ht herr
    exact hregs ▸ committed_primes_ne (source_wellFormed hwf) hi hphase
  · intro c cur d p c1 d1 q c2 d2 hwf hi h1 h2
    obtain ⟨hp, hi1, -⟩ := nextPrime_range (source_wellFormed hwf) hi h1
    obtain ⟨hq, -⟩ := nextPrime_range (source_wellFormed hwf) hi1 h2
    have hne := consecutive_draws_ne (source_wellFormed hwf) hi h1 h2
    exact ⟨hne, not_kdAccepts_of_distinct hp hq hne⟩

end Sys2Proof
end

section
/-! PROOF. The ciphers (46_cipher.md): the diagnostic events of a RESOURCE error, the ciphertext units as exact powers, and the
completions of ENCBYTE, ENCBUF and GENERATE. -/

namespace Sys2Proof

open Machine Claims

/-! ### Diagnostic events -/

theorem begin_dbg_le (s : State) : s.dbg ≤ s.begin.dbg := by
  rw [State.begin_eq]
  exact Nat.le_add_right _ _

theorem begin_dbg_of_debug_off {s : State} (h : s.cfg.debugEn = false) : s.begin.dbg = s.dbg := by
  simp [State.begin_eq, h]

/-- With DEBUG_EN = 0 the unit's turn emits no event (R331). -/
theorem unitTurn_dbg {s t : State} (hd : s.cfg.debugEn = false) (h : unitTurn s = .next t) : t.dbg = s.dbg := by
  cases unitTurn_cases h with
  | command i hp ht =>
    obtain ⟨u, p, st, hu, rfl, -⟩ := exec_writes ht
    exact hu.dbgOff hd
  | illegal hp => rfl
  | nothing => rfl

/-- With DEBUG_EN = 0 no step emits an event (R279, R331). -/
theorem step_dbg {s t : State} (hd : s.cfg.debugEn = false) (h : step s = .next t) : t.dbg = s.dbg := by
  rw [← begin_dbg_of_debug_off hd]
  cases step_cases (wellFormed_of_step h) h with
  | bus x => exact (s.begin.transact_frame x).dbg
  | reset hr => rfl
  | unit hu ht => exact unitTurn_dbg (by simpa using hd) ht

/-- A command that sets ERR to RESOURCE emits an event when DEBUG_EN = 1 (R279). -/
theorem exec_resource_dbg {i : Instr} {s t : State} (hd : s.cfg.debugEn = true) (herr : s.status.err ≠ .resource)
    (h : exec i s = .next t) (hres : t.status.err = .resource) : s.dbg + 1 ≤ t.dbg := by
  cases exec_completion h with
  | finished e he hu hevent => exact hevent hres hd
  | locked ha hu => cases hres
  | hung ha => exact absurd hres herr

/-- Settles O35: the completion of the command is the only event of a step that can set ERR to RESOURCE (`exec_resource_dbg`). -/
theorem resourceErrorNotifiesTheDiagnostics : Obligations.ResourceErrorNotifiesTheDiagnostics := by
  refine ⟨fun s t => step_dbg, fun i s t hp herr hd h hres => ?_⟩
  have hbegin : s.begin.status.err ≠ .resource := by simp [herr]
  cases step_cases (wellFormed_of_step h) h with
  | bus x =>
    obtain ⟨-, -, -, hkept, -⟩ := State.transact_not_idle (s := s.begin) (by simp [hp]) x
    exact absurd (hkept.symm.trans hres) hbegin
  | reset hr => cases hres
  | unit hu ht =>
    rw [unitTurn_command (by simpa using hp)] at ht
    exact (Nat.succ_le_succ (begin_dbg_le s)).trans (exec_resource_dbg (by simpa using hd) hbegin ht hres)

/-! ### The unit of one byte -/

/-- PM is the ciphertext unit of R270 and R277, with no free value, where the exponent is 0 or the modulus in range. -/
theorem powModUnit_eq_cipherUnit {e n : Word} (h : e.toNat = 0 ∨ inRange n.toNat) (x : Word) (d : Nat) :
    powModUnit x e n d = (BitVec.ofNat 64 (cipherUnit x.toNat e.toNat n.toNat), d) := by
  rw [cipherUnit]
  split
  · next he => exact powModUnit_zero he x n d
  · next he => exact powModUnit_inRange he (h.resolve_left he) x d

/-! ### ENCBYTE -/

section Encbyte

variable {s : State}

theorem operandByte_toNat (s : State) : s.operandByte.toNat = s.regs.opa.toNat % 256 := by
  rw [State.operandByte, BitVec.toNat_setWidth_of_le (by omega), BitVec.extractLsb'_toNat, Nat.shiftRight_zero]

theorem exec_encbyte_zero (h : s.regs.keyN.toNat = 0) : exec .encbyte s = s.checkFailed State.havocRes0 := if_pos h

theorem exec_encbyte_nonzero (h : s.regs.keyN.toNat ≠ 0) :
    exec .encbyte s = .next (succeeded s
      { s.regs with res0 := (powModUnit s.operandByte s.regs.keyE s.regs.keyN s.draws).1 }
      (powModUnit s.operandByte s.regs.keyE s.regs.keyN s.draws).2) := if_neg h

end Encbyte

/-- Settles O52: `exec_encbyte_nonzero` with the datapath where it is exact (`powModUnit_eq_cipherUnit`), and `exec_encbyte_zero` with the
outcomes of a failed check. -/
theorem encbyteWritesTheUnit : Obligations.EncbyteWritesTheUnit := by
  refine ⟨decode_encode .encbyte, fun s => ⟨fun hne hexact => ?_, fun _ hbig => ?_, fun h0 => ?_⟩⟩
  · have hrange : s.regs.keyE.toNat = 0 ∨ inRange s.regs.keyN.toNat := hexact.imp_right (⟨by omega, ·⟩)
    rw [exec_encbyte_nonzero hne, powModUnit_eq_cipherUnit hrange, operandByte_toNat]
  · exact ⟨_, _, exec_encbyte_nonzero (by omega)⟩
  · exact exec_encbyte_zero h0 ▸ invalidArgument_havocRes0 s

/-! ### The loops over CTBUF -/

section CtLoops

variable {s t u : State} {wrote : Regs → Prop} {e n k : Nat}

/-- A loop over CTBUF changes the buffers' bytes and the counter of free values alone. -/
theorem ctFrame_eq (h : CtFrame s t k) : t = { s with mem := t.mem, draws := t.draws } := by
  obtain ⟨hcfg, hphase, hstatus, hirqEn, hregs, hport, hdbg, hinputs, hepoch, -⟩ := h
  cases t
  subst hcfg hphase hstatus hirqEn hregs hport hdbg hinputs hepoch
  rfl

/-- A loop over CT[0 … k−1] adds those units to the write set. -/
theorem InWriteSet.ctFrame (h : InWriteSet s wrote 0 u) (hf : CtFrame u t k) : InWriteSet s wrote k t := by
  obtain ⟨r, m, d, rfl, hr, hbytes⟩ := h
  exact ⟨r, t.mem, t.draws, ctFrame_eq hf, hr, fun a ha => (hf.bytes a ha).trans (hbytes a (by omega))⟩

/-- `t` is the Success, from `s`, of the loop of R277 under the key (n, e): registers as they were, only bytes of CT[0 … k−1] written, and
the units exact where PM takes no free value. -/
structure Enciphered (s t : State) (e n k : Nat) : Prop where
  success : t = { succeeded s s.regs t.draws with mem := t.mem }
  bytes : ∀ a, ¬(0x80000 ≤ a ∧ a < 0x80000 + 8 * k) → t.readByte a = s.readByte a
  exactUnits : k = 0 ∨ e = 0 ∨ inRange n →
    t.draws = s.draws ∧ ∀ i < k, t.ctUnit i = BitVec.ofNat 64 (cipherUnit (s.msgByte i).toNat e n)

theorem enciphered_encryptUnits (e n : Word) (hk : k ≤ 65536) (s : State) :
    Enciphered s ((State.encryptUnits e n k s).finish .none) e.toNat n.toNat k where
  success := by
    rw [ctFrame_eq (State.encryptUnits_frame e n k s)]
    rfl
  bytes := (State.encryptUnits_frame e n k s).bytes
  exactUnits := by
    rintro (rfl | h)
    · exact ⟨rfl, nofun⟩
    · obtain ⟨hdraws, hunits⟩ := State.encryptUnits_exact s hk fun x d => powModUnit_draws h x d
      refine ⟨hdraws, fun i hi => (hunits i hi).trans ?_⟩
      rw [powModUnit_eq_cipherUnit h, BitVec.toNat_setWidth_of_le (by omega)]

theorem Enciphered.ctUnit_eq {i : Nat} (h : Enciphered s t e n k) (hexact : e = 0 ∨ inRange n) (hi : i < k) :
    t.ctUnit i = BitVec.ofNat 64 (cipherUnit (s.msgByte i).toNat e n) := by
  obtain ⟨-, hunits⟩ := h.exactUnits (.inr hexact)
  exact hunits i hi

/-- R278: the exact unit is a function of the byte and the key. -/
theorem Enciphered.ctUnit_eq_of_msgByte_eq {i j : Nat} (h : Enciphered s t e n k) (hexact : e = 0 ∨ inRange n) (hi : i < k)
    (hj : j < k) (hb : s.msgByte i = s.msgByte j) : t.ctUnit i = t.ctUnit j := by
  rw [h.ctUnit_eq hexact hi, h.ctUnit_eq hexact hj, hb]

end CtLoops

/-- `raise RESOURCE` changes only STATUS, the phase and the diagnostic count (R279, R310). -/
theorem raise_resource_eq (s : State) :
    ∃ events, s.raise .resource = { failed s .resource s.draws with dbg := s.dbg + events } := by
  rw [State.raise_resource, State.notifyResource_eq]
  exact ⟨_, rfl⟩

/-! ### ENCBUF -/

section Encbuf

variable {s : State}

theorem exec_encbuf_tooLong (h : s.cfg.bufCap < s.regs.msgLen.toNat) : exec .encbuf s = .next (s.raise .resource) := if_pos h

/-- R276: the length is checked before the modulus. -/
theorem exec_encbuf_invalid (hfit : s.regs.msgLen.toNat ≤ s.cfg.bufCap) (hpos : 1 ≤ s.regs.msgLen.toNat)
    (h : s.regs.keyN.toNat = 0) : exec .encbuf s = s.checkFailed (State.havocCt s.regs.msgLen.toNat) := by
  rw [exec, execEncbuf, if_neg (Nat.not_lt.mpr hfit), if_pos ⟨hpos, h⟩]

theorem exec_encbuf_valid (hcap : s.cfg.bufCap ≤ 65536) (hfit : s.regs.msgLen.toNat ≤ s.cfg.bufCap)
    (h : s.regs.msgLen.toNat = 0 ∨ s.regs.keyN.toNat ≠ 0) :
    ∃ t, exec .encbuf s = .next t ∧ Enciphered s t s.regs.keyE.toNat s.regs.keyN.toNat s.regs.msgLen.toNat := by
  refine ⟨_, ?_, enciphered_encryptUnits s.regs.keyE s.regs.keyN (hfit.trans hcap) s⟩
  rw [exec, execEncbuf, if_neg (Nat.not_lt.mpr hfit),
    if_neg fun ⟨hpos, hzero⟩ => h.elim (Nat.ne_of_gt hpos) (· hzero)]

theorem inWriteSet_havocCt (s : State) (k d : Nat) :
    InWriteSet s (fun r => r = s.regs) k (State.havocCt k (s.setDraws d)) := by
  have hdraws : InWriteSet s (fun r => r = s.regs) 0 (s.setDraws d) :=
    inWriteSet_regs (wrote := fun r => r = s.regs) rfl d
  exact hdraws.ctFrame (State.havocCt_frame k _)

end Encbuf

/-- Settles O53: the loop of `exec_encbuf_valid` where both checks hold, and the first check that fails otherwise. -/
theorem encbufWritesTheUnits : Obligations.EncbufWritesTheUnits := by
  refine ⟨decode_encode .encbuf, fun s hcap => ⟨fun hlong => ?_, fun hpos hfit h0 => ?_, fun hfit hkey => ?_⟩⟩
  · rw [exec_encbuf_tooLong hlong]
    exact (raise_resource_eq s).imp fun _ => congrArg _
  · rw [exec_encbuf_invalid hfit hpos h0]
    exact invalidArgument_checkFailed (inWriteSet_havocCt s _) s.draws
  · obtain ⟨t, hexec, ht⟩ := exec_encbuf_valid hcap hfit hkey
    refine ⟨t.mem, t.draws, ?_⟩
    rw [← ht.success]
    exact ⟨hexec, ht.bytes, fun hrange => ht.exactUnits (by unfold inRange; omega)⟩

/-! ### GENERATE -/

section Generate

variable {s : State} {p q c2 d : Nat} {k : KeyMaterial}

theorem exec_generate_empty (h : s.regs.msgLen.toNat = 0) : exec .generate s = s.checkFailed State.havocGenerate := if_pos h

variable (hne : s.regs.msgLen.toNat ≠ 0)
include hne

theorem exec_generate_exhausted (h : keyPhase s.cfg.source s.regs.pcur.toNat s.draws = .exhausted d) :
    exec .generate s = .next (failed s .exhausted d) := by
  simp only [exec, execGenerate, if_neg hne, h]
  rfl

theorem exec_generate_invalid (h : keyPhase s.cfg.source s.regs.pcur.toNat s.draws = .invalid d) :
    exec .generate s = (s.setDraws d).checkFailed State.havocGenerate := by
  simp only [exec, execGenerate, if_neg hne, h]

theorem exec_generate_derived (h : keyPhase s.cfg.source s.regs.pcur.toNat s.draws = .derived p q c2 k d) :
    exec .generate s = .next (s.commitKeyPhase p q c2 k d).cipherPhase := by
  simp only [exec, execGenerate, if_neg hne, h]

end Generate

/-- The free values of a GENERATE whose check failed stay in its write set (R285, log 6). -/
theorem inWriteSet_havocGenerate (s : State) (d : Nat) :
    InWriteSet s (OnlyKeyPhase s) (min s.regs.msgLen.toNat s.cfg.bufCap) (s.setDraws d).havocGenerate :=
  (inWriteSet_havocKeyPhase s d).ctFrame (State.havocCt_frame _ _)

theorem invalidArgument_havocGenerate (s : State) (d : Nat) :
    InvalidArgument s ((s.setDraws d).checkFailed State.havocGenerate) (OnlyKeyPhase s)
      (min s.regs.msgLen.toNat s.cfg.bufCap) :=
  invalidArgument_checkFailed (inWriteSet_havocGenerate s) d

/-! #### The cipher phase -/

section CipherPhase

variable {s : State} {p q c2 d : Nat}

theorem cipherPhase_tooLong (h : s.cfg.bufCap < s.regs.msgLen.toNat) : s.cipherPhase = s.raise .resource := if_pos h

theorem enciphered_cipherPhase {e n : Nat} (hcap : s.cfg.bufCap ≤ 65536) (h : s.regs.msgLen.toNat ≤ s.cfg.bufCap)
    (he : s.regs.keyE.toNat = e) (hn : s.regs.keyN.toNat = n) : Enciphered s s.cipherPhase e n s.regs.msgLen.toNat := by
  subst he hn
  rw [State.cipherPhase, if_neg (Nat.not_lt.mpr h)]
  exact enciphered_encryptUnits _ _ (h.trans hcap) s

/-- The exponent and the modulus that KD accepts fit their registers (R246). -/
theorem toNat_of_kdAccepts (h : KdAccepts p q) :
    (BitVec.ofNat 64 (deriveFrom p q).e).toNat = (deriveFrom p q).e ∧ (BitVec.ofNat 64 (p * q)).toNat = p * q := by
  obtain ⟨-, helt⟩ := (keyFacts_deriveFrom h).eRange
  obtain ⟨-, -, -, hwidth, -⟩ := h
  have hphi : (p - 1) * (q - 1) ≤ p * q := Nat.mul_le_mul (Nat.sub_le p 1) (Nat.sub_le q 1)
  rw [BitVec.toNat_ofNat, BitVec.toNat_ofNat]
  exact ⟨Nat.mod_eq_of_lt (by omega), Nat.mod_eq_of_lt (by omega)⟩

/-- The cipher phase under the key just committed (R281). -/
theorem enciphered_commitKeyPhase (hcap : s.cfg.bufCap ≤ 65536) (hfit : s.regs.msgLen.toNat ≤ s.cfg.bufCap)
    (h : KdAccepts p q) (c2 d : Nat) :
    Enciphered (s.commitKeyPhase p q c2 (deriveFrom p q) d) (s.commitKeyPhase p q c2 (deriveFrom p q) d).cipherPhase
      (deriveFrom p q).e (p * q) s.regs.msgLen.toNat := by
  obtain ⟨he, hn⟩ := toNat_of_kdAccepts h
  exact enciphered_cipherPhase (s := s.commitKeyPhase p q c2 (deriveFrom p q) d) hcap hfit he hn

theorem inRange_of_kdAccepts (h : KdAccepts p q) (hlow : p * q ≤ 2 ^ 63 - 1) : inRange (p * q) := by
  obtain ⟨hp, hq, -⟩ := h
  exact ⟨Nat.mul_pos (Nat.pos_of_ne_zero hp) (Nat.pos_of_ne_zero hq), hlow⟩

end CipherPhase

/-! #### The sequence -/

section Sequence

variable {s t : State} {p c1 d1 q c2 d2 : Nat}

/-- RESOURCE in the cipher phase: nothing else changed but the phase, STATUS and the diagnostic count (R283). -/
theorem cipherPhase_resource (h : s.cfg.bufCap < s.regs.msgLen.toNat) :
    ∃ events, s.cipherPhase = { failed s .resource s.cipherPhase.draws with dbg := s.dbg + events } := by
  obtain ⟨events, hraise⟩ := raise_resource_eq s
  refine ⟨events, ?_⟩
  rw [cipherPhase_tooLong h, hraise]
  rfl

/-- Two draws that KD accepts are committed, and the cipher phase follows (R281). -/
theorem exec_generate_accepted (hne : s.regs.msgLen.toNat ≠ 0)
    (h1 : nextPrime s.cfg.source s.regs.pcur.toNat s.draws = .found p c1 d1)
    (h2 : nextPrime s.cfg.source c1 d1 = .found q c2 d2) (hkd : KdAccepts p q) :
    exec .generate s = .next (s.commitKeyPhase p q c2 (deriveFrom p q) d2).cipherPhase :=
  exec_generate_derived hne (keyPhase_derived h1 h2 hkd)

/-- The key committed is the key of `keyRegs`. -/
theorem success_of_enciphered_commitKeyPhase {k : Nat}
    (h : Enciphered (s.commitKeyPhase p q c2 (deriveFrom p q) d2) t (deriveFrom p q).e (p * q) k) :
    { succeeded s (keyRegs s.regs p q c2 (deriveFrom p q).e (deriveFrom p q).d) t.draws with mem := t.mem } = t :=
  h.success.symm

/-- A failed check shows no RESOURCE error unless the command hangs (R141, R142). -/
theorem err_ne_resource_of_checkFailed {havoc : State → State} (h : s.checkFailed havoc = .next t)
    (hb : t.isBusy = false) : t.status.err ≠ .resource := by
  rcases State.checkFailed_cases h with ⟨-, rfl⟩ | ⟨-, rfl | rfl⟩
  · exact nofun
  · cases hb
  · exact nofun

/-- R283: RESOURCE comes from the cipher phase, after the commit. -/
theorem exec_generate_resource (h : exec .generate s = .next t) (hb : t.isBusy = false) (hres : t.status.err = .resource) :
    ∃ p q c2 k d, keyPhase s.cfg.source s.regs.pcur.toNat s.draws = .derived p q c2 k d ∧
      s.cfg.bufCap < s.regs.msgLen.toNat ∧ t = (s.commitKeyPhase p q c2 k d).raise .resource := by
  by_cases hne : s.regs.msgLen.toNat = 0
  · rw [exec_generate_empty hne] at h
    exact absurd hres (err_ne_resource_of_checkFailed h hb)
  · cases hphase : keyPhase s.cfg.source s.regs.pcur.toNat s.draws with
    | derived p q c2 k d =>
      cases (exec_generate_derived hne hphase).symm.trans h
      refine ⟨p, q, c2, k, d, rfl, ?_⟩
      rw [State.cipherPhase] at hres ⊢
      split at hres
      · next hlong => exact ⟨hlong, if_pos hlong⟩
      · cases hres
    | exhausted d =>
      cases (exec_generate_exhausted hne hphase).symm.trans h
      cases hres
    | invalid d =>
      rw [exec_generate_invalid hne hphase] at h
      exact absurd hres (err_ne_resource_of_checkFailed h hb)

/-- KEYGEN commits the same key phase as GENERATE (R255, R281). -/
theorem exec_keygen_commit {d : Nat} {k : KeyMaterial}
    (h : keyPhase s.cfg.source s.regs.pcur.toNat s.draws = .derived p q c2 k d) :
    exec .keygen s = .next ((s.commitKeyPhase p q c2 k d).finish .none) := by
  simp only [exec, execKeygen, h]

/-- Any error but the RESOURCE of GENERATE writes no register and no byte (R140, R283). -/
theorem exec_error_unchanged {i : Instr} (h : exec i s = .next t) (hb : t.isBusy = false)
    (hres : t.status.err ≠ .resource) (herr : t.status.err ≠ .none) : t.regs = s.regs ∧ t.mem = s.mem := by
  cases exec_cases h with
  | success u => exact absurd rfl herr
  | error e d =>
    obtain ⟨n, hraise⟩ := raise_eq (s.setDraws d) e
    rw [hraise]
    exact ⟨rfl, rfl⟩
  | fatal d => exact ⟨rfl, rfl⟩
  | hung d => cases hb
  | keyKept hi u => exact absurd rfl hres

end Sequence

/-- Settles O54: the units are exact in both commands (`exec_encbuf_valid`, `enciphered_commitKeyPhase`), and an exact unit is a function of
its byte. -/
theorem equalBytesGiveEqualUnits : Obligations.EqualBytesGiveEqualUnits := by
  refine ⟨fun s t i j hcap hfit hkey hi hj hb h => ?_,
    fun s t p c1 d1 q c2 d2 i j hcap hfit h1 h2 hkd hlow hi hj hb h => ?_⟩
  · obtain ⟨u, hexec, hu⟩ := exec_encbuf_valid hcap hfit (by omega)
    cases hexec.symm.trans h
    exact hu.ctUnit_eq_of_msgByte_eq (hkey.imp_left And.left) hi hj hb
  · cases (exec_generate_accepted (Nat.ne_zero_of_lt hi) h1 h2 hkd).symm.trans h
    exact (enciphered_commitKeyPhase hcap hfit hkd c2 d2).ctUnit_eq_of_msgByte_eq (.inr (inRange_of_kdAccepts hkd hlow)) hi hj hb

/-- Settles O55: the length check, then the key phase as in KEYGEN, and where KD accepts the cipher phase from the committed key. -/
theorem generateFollowsItsSequence : Obligations.GenerateFollowsItsSequence := by
  refine ⟨decode_encode .generate, fun s hcap => ⟨fun h0 => ?_,
    fun hne hx => exec_generate_exhausted hne (keyPhase_exhausted_first hx), fun hne hx => ?_⟩⟩
  · have hcheck := invalidArgument_havocGenerate s s.draws
    rw [h0, Nat.zero_min] at hcheck
    exact exec_generate_empty h0 ▸ hcheck
  obtain ⟨p, c1, d1, hp, hpnext⟩ := nextPrime_found hx s.draws
  refine ⟨p, c1, hpnext, fun hx1 => ⟨d1, exec_generate_exhausted hne (keyPhase_exhausted_second hp hx1)⟩, fun hx1 => ?_⟩
  obtain ⟨q, c2, d2, hq, hqnext⟩ := nextPrime_found hx1 d1
  refine ⟨q, c2, hqnext, fun hkd => ?_, fun hkd => ?_⟩
  · rw [exec_generate_invalid hne (keyPhase_invalid hp hq hkd)]
    exact invalidArgument_havocGenerate s d2
  rw [exec_generate_accepted hne hp hq hkd]
  refine ⟨_, _, (s.commitKeyPhase p q c2 (deriveFrom p q) d2).cipherPhase.draws, keyFacts_deriveFrom hkd,
    fun hlong => ?_, fun hfit => ?_⟩
  · obtain ⟨events, hresource⟩ := cipherPhase_resource (s := s.commitKeyPhase p q c2 (deriveFrom p q) d2) hlong
    exact ⟨events, congrArg _ hresource⟩
  · have hdone := enciphered_commitKeyPhase hcap hfit hkd c2 d2
    refine ⟨(s.commitKeyPhase p q c2 (deriveFrom p q) d2).cipherPhase.mem, ?_⟩
    rw [success_of_enciphered_commitKeyPhase hdone]
    exact ⟨rfl, hdone.bytes, fun hlow _ => hdone.ctUnit_eq (.inr (inRange_of_kdAccepts hkd hlow))⟩

/-- Settles O56: both draws are determined (`nextPrime_of_nextPrimeIs`), so GENERATE commits their key and enciphers under it. -/
theorem generateCompletes : Obligations.GenerateCompletes := by
  intro s p c1 q c2 hi hlow hcap hpos hfit hp hq hkd
  obtain ⟨hi1, hlow1⟩ := cursor_of_nextPrimeIs hi hlow hp
  have hfirst := nextPrime_of_nextPrimeIs hi hlow hp s.draws
  have hsecond := nextPrime_of_nextPrimeIs hi1 hlow1 hq s.draws
  have hdone := enciphered_commitKeyPhase hcap hfit hkd c2 s.draws
  have hsuccess := success_of_enciphered_commitKeyPhase hdone
  exact ⟨_, _, _, exec_generate_accepted (Nat.ne_of_gt hpos) hfirst hsecond hkd, keyFacts_deriveFrom hkd,
    (congrArg State.regs hsuccess).symm, (congrArg State.phase hsuccess).symm, (congrArg State.status hsuccess).symm,
    fun hwidth _ => hdone.ctUnit_eq (.inr (inRange_of_kdAccepts hkd hwidth))⟩

/-- Settles O57: `exec_generate_resource` with the commit that KEYGEN makes too, and `exec_error_unchanged`. -/
theorem generateKeepsTheKeyOnResource : Obligations.GenerateKeepsTheKeyOnResource := by
  refine fun s t h hb => ⟨fun hres => ?_, exec_error_unchanged h hb⟩
  obtain ⟨p, q, c2, k, d, hphase, hlong, rfl⟩ := exec_generate_resource h hb hres
  obtain ⟨events, hraise⟩ := raise_resource_eq (s.commitKeyPhase p q c2 k d)
  rw [hraise]
  exact ⟨hlong, rfl, rfl, rfl, _, exec_keygen_commit hphase, rfl, rfl⟩

end Sys2Proof
end

section
/-! PROOF. Exceptions (60_exceptions.md): a step of a legal configuration always answers a state, no fatal completion occurs without
enforcement, the codes that STATUS.ERR reads, and the interrupt line. -/

namespace Sys2Proof

open Machine Claims

/-! ### Every step answers a state -/

theorem unitTurn_next (s : State) : ∃ t, unitTurn s = .next t := by
  unfold unitTurn
  split
  · exact exec_next _ s
  all_goals exact ⟨_, rfl⟩

/-- Settles O10, event by event: a transaction and a reset answer a state outright, the unit's turn by `unitTurn_next`. -/
theorem everyStepAnswersAState : Obligations.EveryStepAnswersAState := by
  intro s hc
  match h : s.inputs.head? with
  | some (.bus x) => exact ⟨_, step_bus hc h⟩
  | some .reset => exact ⟨_, step_reset hc h⟩
  | some .unit => exact step_unit hc (.inr h) ▸ unitTurn_next s.begin
  | none => exact step_unit hc (.inl h) ▸ unitTurn_next s.begin

/-! ### No fatal completion without enforcement -/

/-- No host transaction enters or leaves LOCKED: the one that changes the phase is the accepting write, from IDLE to BUSY (R131). -/
theorem transact_isFatal (s : State) (x : Transaction) : (s.transact x).isFatal = s.isFatal := by
  obtain ⟨u, r, d, hu, ht⟩ := transact_effect s x
  rw [ht]
  change u.isFatal = s.isFatal
  cases hu with
  | accepted w hi => simp [State.isFatal, hi]
  | _ => rfl

/-- With ASSERT_EN = 0 a command succeeds, raises an error or hangs (R142). -/
theorem exec_not_fatal {i : Instr} {s t : State} (ha : s.cfg.assertEn = false) (h : exec i s = .next t) :
    t.isFatal = false := by
  cases exec_completion h with
  | finished e he hu => rfl
  | locked ha' hu => simp [ha] at ha'
  | hung ha' => rfl

theorem unitTurn_not_fatal {s t : State} (ha : s.cfg.assertEn = false) (hf : s.isFatal = false)
    (h : unitTurn s = .next t) : t.isFatal = false := by
  cases unitTurn_cases h with
  | command i hp ht => exact exec_not_fatal ha ht
  | illegal hp => rfl
  | nothing => exact hf

theorem step_not_fatal {s t : State} (ha : s.cfg.assertEn = false) (hf : s.isFatal = false) (h : step s = .next t) :
    t.isFatal = false := by
  have hbegin : s.begin.isFatal = false := (isFatal_congr s.begin_phase).trans hf
  cases step_cases (wellFormed_of_step h) h with
  | bus x => exact (transact_isFatal s.begin x).trans hbegin
  | reset hr => rfl
  | unit hu ht => exact unitTurn_not_fatal (by simpa using ha) hbegin ht

theorem unitTurn_cfg {s t : State} (h : unitTurn s = .next t) : t.cfg = s.cfg := by
  cases unitTurn_cases h with
  | command i hp ht => exact exec_cfg ht
  | illegal hp => rfl
  | nothing => rfl

/-- The synthesis parameters are fixed: no step changes them (00_scope.md R11). -/
theorem step_cfg {s t : State} (h : step s = .next t) : t.cfg = s.cfg := by
  rw [← s.begin_cfg]
  cases step_cases (wellFormed_of_step h) h with
  | bus x => exact (s.begin.transact_frame x).cfg
  | reset hr => rfl
  | unit hu ht => exact unitTurn_cfg ht

/-- With FATAL = 0 the done source alone drives the line (R320). -/
theorem irq_of_not_fatal {s : State} (hf : s.isFatal = false) : s.irq = (s.status.done && s.irqEn.doneIe) := by
  simp [State.irq, hf]

/-- Settles O14: no event reaches LOCKED (`step_not_fatal`), and outside it the fatal source is quiet. -/
theorem noFatalWithoutEnforcement : Obligations.NoFatalWithoutEnforcement := by
  intro s t ha hf h
  have ht := step_not_fatal ha hf h
  exact ⟨ht, step_cfg h ▸ ha, irq_of_not_fatal ht⟩

/-! ### The code in STATUS.ERR -/

/-- The codes of R300 are 0 to 4. -/
theorem errCode_bits_le (e : ErrCode) : e.bits.toNat ≤ 4 := by cases e <;> decide

/-- Settles O17: bits [7:4] are the number of the error code (`err_of_statusWord`). -/
theorem errorCodeIsAtMostFour : Obligations.ErrorCodeIsAtMostFour := by
  intro s
  rw [BitVec.extractLsb'_toNat, Nat.shiftRight_eq_div_pow]
  exact (err_of_statusWord s).trans_le (errCode_bits_le s.status.err)

/-! ### The interrupt line

A word with a one-bit field at its low end is a `BitVec.concat`, which gives bit 0 and shifts the bits above it. -/

section Bits

variable (s : State)

/-- STATUS bit 1 is DONE (R35). -/
theorem statusWord_done : s.statusWord.getLsbD 1 = s.status.done :=
  BitVec.getLsbD_concat_succ.trans BitVec.getLsbD_concat_zero

/-- STATUS bit 2 is FATAL (R35). -/
theorem statusWord_fatal : s.statusWord.getLsbD 2 = s.isFatal :=
  BitVec.getLsbD_concat_succ.trans (BitVec.getLsbD_concat_succ.trans BitVec.getLsbD_concat_zero)

/-- IRQ_EN bit 0 is DONE_IE (R40). -/
theorem irqEnWord_doneIe : s.irqEnWord.getLsbD 0 = s.irqEn.doneIe := BitVec.getLsbD_concat_zero

/-- IRQ_EN bit 1 is FATAL_IE (R40). -/
theorem irqEnWord_fatalIe : s.irqEnWord.getLsbD 1 = s.irqEn.fatalIe :=
  BitVec.getLsbD_concat_succ.trans BitVec.getLsbD_concat_zero

end Bits

/-- Settles O32: each bit that R320 names is the field that `State.irq` reads. -/
theorem interruptLineFollowsStatus : Obligations.InterruptLineFollowsStatus := by
  intro s
  rw [statusWord_done, statusWord_fatal, irqEnWord_doneIe, irqEnWord_fatalIe]
  rfl

end Sys2Proof
end

section
/-! PROOF. Reset (70_reset_and_hazards.md): the buffers after it. -/

namespace Sys2Proof

open Machine

/-- A byte that nothing has written since reset is the free value of that reset and offset (R340, R346, log 7). -/
theorem readByte_of_mem_nil {s : State} (h : s.mem = []) (a : Nat) : s.readByte a = Config.resetByte s.epoch a := by
  simp [State.readByte, h, Memory.read?]

@[simp] theorem applyReset_epoch (s : State) : s.applyReset.epoch = s.epoch + 1 := rfl

/-- Settles O34: `step_reset`, whose state lists no written byte (`readByte_of_mem_nil`). -/
theorem resetForgetsTheBuffers : Obligations.ResetForgetsTheBuffers := by
  intro s hc hr
  refine ⟨s.begin.applyReset, step_reset hc hr, s.begin.applyReset_mem, fun a => ?_, by simp⟩
  rw [readByte_of_mem_nil s.begin.applyReset_mem, applyReset_epoch, s.begin_epoch]

end Sys2Proof
end
